-- ==== Sys2Proof/Word.lean ====
section
/-! DEFINITION. The widths the spec fixes (00_scope.md R5, R6, R10): one name for each kind of word, so that the
signatures of the model read as the spec's tables do. Bit 0 is the least significant bit of every word (R7). -/

namespace Sys2Proof

/-- A digit slot, the decimal-point mask or the command word: 8 bits (R5, R51). -/
abbrev Byte := BitVec 8

/-- The switch word and the LED mirror word: 16 bits (R5, R29, R31). -/
abbrev Half := BitVec 16

/-- A value of the source's `float`, in the layout of R10: sign 31, exponent 30:23, fraction 22:0 (R6, 92 D1). -/
abbrev Binary32 := BitVec 32

/-- A value of the source's integers, `INT_W` = 32 bits, two's complement (R6, 92 D3). -/
abbrev IntWord := BitVec 32

/-- A decoded limit: 7 bits, 0..127 (R5, R56). -/
abbrev Limit := BitVec 7

end Sys2Proof
end

