-- ==== Sys2Proof/Syntax.lean ====
section
/-! DEFINITION. The operation term of 30_encoding.md R57 (one constructor per row of spec/opcode_table.json) and the
command that carries it: the command word of R51 and the operand ports of R55. -/

namespace Sys2Proof

/-- The two measurement channels (R11): `ch` is 0 for external and 1 for internal. -/
inductive Channel where
  | external
  | internal
deriving DecidableEq, Repr

/-- The alert colour (R12): 0 is Green and 1 is Red. -/
inductive AlertColor where
  | green
  | red
deriving DecidableEq, Repr

/-- The decoded operation, with its operand values (R57). Boolean operands are `true` for 1 (R12). -/
inductive Instr where
  /-- CEL2FER (R70): Celsius to Fahrenheit. -/
  | cel2fer (tc : Binary32)
  /-- GETLIM (R80): a channel's limit field of the switch word. -/
  | getlim (ch : Channel) (w : Half)
  /-- GETFMT (R81): a channel's format bit of the switch word. -/
  | getfmt (ch : Channel) (w : Half)
  /-- DISPLIM (R84): the LED mirror word of two limits. -/
  | displim (a : IntWord) (b : IntWord)
  /-- SETRGB (R100): a channel's duty triple. -/
  | setrgb (ch : Channel) (color : AlertColor)
  /-- DISPTEMP (R110): render one channel's temperature. -/
  | disptemp (ch : Channel) (tc : Binary32) (tf : Binary32) (useF : Bool)
  /-- DISPDP (R140): the decimal-point mask; the internal flag comes first. -/
  | dispdp (intOH : Bool) (extOH : Bool)
  /-- CLRDISP (R150): blank the display. -/
  | clrdisp
deriving DecidableEq, Repr

/-- The operand ports, each with its width (R55). -/
structure Ports where
  /-- The switch word, read by GETLIM and GETFMT. -/
  w : Half
  /-- The Celsius temperature, read by CEL2FER and DISPTEMP. -/
  tc : Binary32
  /-- The Fahrenheit temperature, read by DISPTEMP. -/
  tf : Binary32
  /-- limitExternal, read by DISPLIM. -/
  a : IntWord
  /-- limitInternal, read by DISPLIM. -/
  b : IntWord
  /-- The alert colour, read by SETRGB. -/
  color : BitVec 1
  /-- 1 selects Fahrenheit, read by DISPTEMP. -/
  useF : BitVec 1
  /-- The internal channel's over-hundred flag, read by DISPDP. -/
  intOH : BitVec 1
  /-- The external channel's over-hundred flag, read by DISPDP. -/
  extOH : BitVec 1
deriving DecidableEq, Repr

/-- One command of the host: the command word CMD and the values on the operand ports (R50). -/
structure Command where
  /-- CMD, 8 bits (R51). -/
  word : Byte
  /-- The operand ports (R55). -/
  ports : Ports
deriving DecidableEq, Repr

end Sys2Proof
end

