-- ==== Sys2Proof/Machine/Operands.lean ====
section
/-! DEFINITION. Operand layouts: the fields of the switch word (10_state.md R31), the 7-bit mask of a limit operand
(R84), the constants of the display and of the duty channels (R13, R100, R120). -/

namespace Sys2Proof.Machine

/-- A channel's limit field of the switch word: `w & 0x7F` or `(w >> 8) & 0x7F` (R31, R80). -/
def switchLimit (ch : Channel) (w : Half) : Limit :=
  match ch with
  | .external => (w &&& 0x7F#16).truncate 7
  | .internal => ((w >>> 8) &&& 0x7F#16).truncate 7

/-- A channel's format bit of the switch word: bit 7 or bit 15, true for Fahrenheit (R31, R81). -/
def switchFormat (ch : Channel) (w : Half) : Bool :=
  match ch with
  | .external => w.getLsbD 7
  | .internal => w.getLsbD 15

/-- A limit operand masked to its low 7 bits, as R84 and R85 require on every use. -/
def maskLimit (x : IntWord) : IntWord := x &&& 0x7F#32

/-- BLANK, "sentinel seven-segment pattern (0xFF) meaning no segment lit" (R13). -/
def blankPattern : Byte := 0xFF#8

/-- The unit glyph: 0x0F for Fahrenheit, 0x0C for Celsius (R120). -/
def unitGlyph (useF : Bool) : Byte := if useF then 0x0F#8 else 0x0C#8

/-- The duty that is off: binary32 +0.0 (R100). -/
def dutyOff : Binary32 := 0x00000000#32

/-- A decimal digit as a slot value (`zext_8` of R110). -/
def digitPattern (n : Int) : Byte := BitVec.ofInt 8 n

end Sys2Proof.Machine
end

