-- ==== Sys2Proof/WellFormed.lean ====
section
/-! DEFINITION. Which command words spell an operation (30_encoding.md R51 to R54), as checks on the word that do not
go through the decoder. Terms of `Instr` need no check of their own: "Because `color`, `useF`, `intOH`, `extOH` and `ch`
are single bits, the source's domains … cannot be violated" (R55), and the field types of `Instr` are those widths. -/

namespace Sys2Proof

/-- CMD[7:4] is 0b0000 (R51). -/
def Command.reservedClear (c : Command) : Bool := c.word.extractLsb' 4 4 == 0#4

/-- The selector in CMD[2:0] is one of the four operations that take a channel: GETLIM, GETFMT, SETRGB, DISPTEMP
(R52). -/
def Command.takesChannel (c : Command) : Bool :=
  [1#3, 2#3, 4#3, 5#3].contains (c.word.extractLsb' 0 3)

/-- CMD[3] is 0 unless the operation takes a channel (R51). -/
def Command.channelAllowed (c : Command) : Bool := c.takesChannel || !c.word.getLsbD 3

/-- The command word is legal. The values on the ports do not matter (R54, R55). -/
def Command.wellFormed (c : Command) : Bool := c.reservedClear && c.channelAllowed

/-- The twelve legal command words of R53, in the table's order. -/
def legalWords : List Byte :=
  [0x00#8, 0x01#8, 0x09#8, 0x02#8, 0x0A#8, 0x03#8, 0x04#8, 0x0C#8, 0x05#8, 0x0D#8, 0x06#8, 0x07#8]

end Sys2Proof
end

