-- ==== Sys2Proof/Decode.lean ====
section
/-! DEFINITION. The decoder of 30_encoding.md R57, total on all command words and rejecting by name, and the encoder
written from the tables of R51 to R53. -/

namespace Sys2Proof

/-- Why a command word spells no operation (R54). Which of the two a word gets is a name only: R57 answers `invalid`
for both (log 14). -/
inductive Invalid where
  /-- CMD[7:4] is not zero. -/
  | reservedBits (rsv : BitVec 4)
  /-- CMD[3] is 1 on an operation that takes no channel. -/
  | channelBit (op : BitVec 3)
deriving DecidableEq, Repr

/-- The channel a `ch` bit names (R11). -/
def channelOfBit (b : Bool) : Channel := if b then .internal else .external

/-- The `ch` bit of a channel (R11). -/
def bitOfChannel : Channel → Bool
  | .external => false
  | .internal => true

/-- The alert colour a `color` bit names (R12). -/
def colorOfBit (b : BitVec 1) : AlertColor := if b = 1#1 then .red else .green

/-- The `color` bit of an alert colour (R12). -/
def bitOfColor : AlertColor → BitVec 1
  | .green => 0#1
  | .red => 1#1

/-- A one-bit operand read as a boolean: 1 is true (R12). -/
def boolOfBit (b : BitVec 1) : Bool := b == 1#1

/-- CMD[2:0], the operation selector (R51). -/
def opField (word : Byte) : BitVec 3 := word.extractLsb' 0 3

/-- CMD[3], the channel bit (R51). -/
def chField (word : Byte) : Bool := word.getLsbD 3

/-- CMD[7:4], the reserved field (R51). -/
def rsvField (word : Byte) : BitVec 4 := word.extractLsb' 4 4

/-- An operation that takes no channel needs CMD[3] = 0 (R51, R57). -/
def withoutChannel (word : Byte) (i : Instr) : Except Invalid Instr :=
  if chField word then .error (.channelBit (opField word)) else .ok i

/-- The `case op of` of R57, op by op; after the seventh test `op` is 0b111. -/
def decodeOp (op : BitVec 3) (ch : Channel) (c : Command) : Except Invalid Instr :=
  if op = 0b000#3 then withoutChannel c.word (.cel2fer c.ports.tc)
  else if op = 0b001#3 then .ok (.getlim ch c.ports.w)
  else if op = 0b010#3 then .ok (.getfmt ch c.ports.w)
  else if op = 0b011#3 then withoutChannel c.word (.displim c.ports.a c.ports.b)
  else if op = 0b100#3 then .ok (.setrgb ch (colorOfBit c.ports.color))
  else if op = 0b101#3 then .ok (.disptemp ch c.ports.tc c.ports.tf (boolOfBit c.ports.useF))
  else if op = 0b110#3 then withoutChannel c.word (.dispdp (boolOfBit c.ports.intOH) (boolOfBit c.ports.extOH))
  else withoutChannel c.word .clrdisp

/-- The decoder of R57. A word's legality is decided before any operand is examined (R164). -/
def decode (c : Command) : Except Invalid Instr :=
  if rsvField c.word ≠ 0#4 then .error (.reservedBits (rsvField c.word))
  else decodeOp (opField c.word) (channelOfBit (chField c.word)) c

/-- Every operand port at zero. -/
def Ports.zero : Ports :=
  { w := 0, tc := 0, tf := 0, a := 0, b := 0, color := 0, useF := 0, intOH := 0, extOH := 0 }

/-- The command word with selector `op` and channel bit `ch`, reserved bits zero (R51). -/
def commandWord (op : BitVec 3) (ch : Bool) : Byte := 0#4 ++ BitVec.ofBool ch ++ op

/-- The command that issues an operation: the word of R52 and R53, the operands on the ports its row of R55 names, and
zero on the ports it does not read. -/
def encode : Instr → Command
  | .cel2fer tc => { word := commandWord 0 false, ports := { Ports.zero with tc := tc } }
  | .getlim ch w => { word := commandWord 1 (bitOfChannel ch), ports := { Ports.zero with w := w } }
  | .getfmt ch w => { word := commandWord 2 (bitOfChannel ch), ports := { Ports.zero with w := w } }
  | .displim a b => { word := commandWord 3 false, ports := { Ports.zero with a := a, b := b } }
  | .setrgb ch color =>
    { word := commandWord 4 (bitOfChannel ch), ports := { Ports.zero with color := bitOfColor color } }
  | .disptemp ch tc tf useF =>
    { word := commandWord 5 (bitOfChannel ch)
      ports := { Ports.zero with tc := tc, tf := tf, useF := BitVec.ofBool useF } }
  | .dispdp intOH extOH =>
    { word := commandWord 6 false
      ports := { Ports.zero with intOH := BitVec.ofBool intOH, extOH := BitVec.ofBool extOH } }
  | .clrdisp => { word := commandWord 7 false, ports := Ports.zero }

/-- The command whose bits are the low `nbits` bits of `w`: the one format is an 8-bit word (R50), and every operand
port, which the table gives no bits, is zero (log 15). -/
def commandOfBits (nbits w : Nat) : Command :=
  { word := BitVec.ofNat 8 (w % 2 ^ nbits), ports := Ports.zero }

/-- What the decoder reads from an instruction whose bits are `w`. -/
def decodeTableWord (nbits w : Nat) : Option Instr :=
  match decode (commandOfBits nbits w) with
  | .ok i => some i
  | .error _ => none

end Sys2Proof
end

