-- ==== Sys2Proof/Config.lean ====
section
/-! DEFINITION. What an implementation fixes: the parameters of 00_scope.md R6 that carry a number, and the FREE VALUES,
constants without a body that no proof can see into. -/

namespace Sys2Proof

/-- `INT_W` of R6 (92 D3): the width of the source's integers. It is the width of `IntWord` and it bounds the integer
conversion of DISPTEMP (R113). -/
def Config.intW : Nat := 32

/-- `DUTY_ON` of R6 and R102 (92 D9): the binary32 value nearest 0.30. -/
def Config.dutyOn : Binary32 := 0x3E99999A#32

/-- FREE VALUE (`NAN_PAYLOAD` of R6, 92 D16, 93 U2): the n-th NaN draw, a sign and one of the 2^23 - 1 non-zero
fractions, given as the fraction less one. Log 7 (DESIGN CHOICE, safe). -/
opaque Config.nanDraw : Nat → Bool × Fin 8388607

/-- FREE VALUE: whether a fault that finds the mark already set leaves the older record in place. R162 gives the record
that one fault sets and says that the mark is never cleared; it does not speak of a second one. Log 6 (DESIGN CHOICE,
safe). -/
opaque Config.faultKeepsFirst : Bool

/-- The two values of the host's parameter `ALERT_COMPARE` (R6, R101, 92 D17). -/
inductive AlertCompare where
  /-- Compare the Celsius reading with the limit. -/
  | celsius
  /-- Compare the reading in the channel's selected display unit with the limit. -/
  | displayUnit
deriving DecidableEq, Repr, Inhabited

/-- FREE VALUE: the open host parameter `ALERT_COMPARE` (92 D17 OPEN, 93 U10). Log 12 (DESIGN CHOICE, safe). -/
opaque Config.alertCompare : AlertCompare

/-- FREE VALUE: whether the host calls a NaN temperature hotter than the limit ("how a NaN `T` compares is also left to
the host", R101). Log 12 (DESIGN CHOICE, safe). -/
opaque Config.alertOfNaN : Bool

end Sys2Proof
end

