-- ==== Sys2Proof/Machine/Float.lean ====
section
/-! DEFINITION. The float primitives of 00_scope.md R9 over the binary32 layout of R10, by exact arithmetic and one
rounding to nearest, ties to even (R6, 92 D1). Every finite binary32 value is a whole number of UNITS, one unit being
2^-149, the smallest subnormal. The corner cases that R9 leaves to IEEE 754 (signs of zeros, infinities) are log 9. -/

namespace Sys2Proof.Machine

/-- A binary32 value without a NaN's payload. -/
inductive Fp where
  /-- Some NaN. -/
  | nan
  /-- An infinity, negative when `neg`. -/
  | inf (neg : Bool)
  /-- The finite value of `mag` units of 2^-149, negative when `neg`; a zero keeps its sign. -/
  | fin (neg : Bool) (mag : Nat)
deriving DecidableEq, Repr

/-- How many units make 1: 2^149. -/
def unitsPerOne : Nat := 2 ^ 149

/-- 2^128 in units: a rounded magnitude this large has overflowed (R9). -/
def overflowUnits : Nat := 2 ^ 128 * unitsPerOne

/-- The magnitude in units that the exponent and fraction fields `bits` = x[30:0] encode (R10). -/
def magOfBits (bits : Nat) : Nat :=
  let e := bits / 2 ^ 23
  let f := bits % 2 ^ 23
  if e = 0 then f else (2 ^ 23 + f) * 2 ^ (e - 1)

/-- x[30:0] for a magnitude in units (R10): the exponent field counts how far the leading bit stands above bit 23. -/
def bitsOfMag (mag : Nat) : Nat :=
  let k := mag.log2 - 23
  k * 2 ^ 23 + mag / 2 ^ k

/-- The value a binary32 encoding stands for (R10). -/
def unpack (x : Binary32) : Fp :=
  let neg := x.getLsbD 31
  let e := x.extractLsb' 23 8
  let f := x.extractLsb' 0 23
  if e = 0xFF#8 then (if f = 0#23 then .inf neg else .nan)
  else .fin neg (magOfBits (x.toNat % 2 ^ 31))

/-- The binary32 encoding of a value; `nan` is the encoding to use for a NaN. -/
def pack (nan : Binary32) : Fp → Binary32
  | .nan => nan
  | .inf neg => BitVec.ofBool neg ++ 0x7F800000#31
  | .fin neg mag => BitVec.ofBool neg ++ BitVec.ofNat 31 (bitsOfMag mag)

/-- The NaN encoding of one draw: sign, exponent all ones, and a fraction that is never zero (R10, 93 U2). -/
def nanOfDraw (d : Bool × Fin 8388607) : Binary32 :=
  BitVec.ofBool d.1 ++ 0xFF#8 ++ BitVec.ofNat 23 (d.2.val + 1)

/-- `num / den` rounded to the nearest whole number, ties to the even one (R6). -/
def nearestEven (num den : Nat) : Nat :=
  let q := num / den
  let r := num % den
  if den < 2 * r ∨ (2 * r = den ∧ q % 2 = 1) then q + 1 else q

/-- How many low bits a magnitude of `num / den` units has below its leading 24. -/
def dropped (num den : Nat) : Nat := (num / den).log2 - 23

/-- `num / den` units rounded to the nearest magnitude with at most 24 significant bits, ties to the even one (R6, R9).
No bound is applied here: overflow is `ofRatio`'s. -/
def roundUnits (num den : Nat) : Nat :=
  let k := dropped num den
  nearestEven num (den * 2 ^ k) * 2 ^ k

/-- The exact value `num / den` units, negative when `neg`, rounded once; past the largest finite value it is an infinity
(R9). -/
def ofRatio (neg : Bool) (num den : Nat) : Fp :=
  let m := roundUnits num den
  if overflowUnits ≤ m then .inf neg else .fin neg m

/-- The whole number of units of a finite value, with its sign. -/
def signedUnits (neg : Bool) (mag : Nat) : Int := if neg then -(mag : Int) else (mag : Int)

/-- `fmul` of R9. -/
def fmul : Fp → Fp → Fp
  | .nan, _ => .nan
  | _, .nan => .nan
  | .inf n, .inf m => .inf (n ^^ m)
  | .inf n, .fin m b => if b = 0 then .nan else .inf (n ^^ m)
  | .fin n a, .inf m => if a = 0 then .nan else .inf (n ^^ m)
  | .fin n a, .fin m b => ofRatio (n ^^ m) (a * b) unitsPerOne

/-- `fdiv` of R9. -/
def fdiv : Fp → Fp → Fp
  | .nan, _ => .nan
  | _, .nan => .nan
  | .inf _, .inf _ => .nan
  | .inf n, .fin m _ => .inf (n ^^ m)
  | .fin n _, .inf m => .fin (n ^^ m) 0
  | .fin n a, .fin m b =>
    if b = 0 then (if a = 0 then .nan else .inf (n ^^ m)) else ofRatio (n ^^ m) (a * unitsPerOne) b

/-- `fadd` of R9. A sum that is exactly zero is +0 unless both operands are negative zeros. -/
def fadd : Fp → Fp → Fp
  | .nan, _ => .nan
  | _, .nan => .nan
  | .inf n, .inf m => if n = m then .inf n else .nan
  | .inf n, .fin _ _ => .inf n
  | .fin _ _, .inf m => .inf m
  | .fin n a, .fin m b =>
    let z := signedUnits n a + signedUnits m b
    if z = 0 then .fin (n && m) 0 else ofRatio (decide (z < 0)) z.natAbs 1

/-- `flt` of R9: a < b, false when either is a NaN; -0 and +0 are equal. -/
def flt : Fp → Fp → Bool
  | .nan, _ => false
  | _, .nan => false
  | .inf n, .inf m => n && !m
  | .inf n, .fin _ _ => n
  | .fin _ _, .inf m => !m
  | .fin n a, .fin m b => decide (signedUnits n a < signedUnits m b)

/-- `fge` of R9: a ≥ b, false when either is a NaN. -/
def fge : Fp → Fp → Bool
  | .nan, _ => false
  | _, .nan => false
  | a, b => !flt a b

/-- Whether the value is a NaN. -/
def isNaN : Fp → Bool
  | .nan => true
  | .inf _ => false
  | .fin _ _ => false

/-- `floorInt` of R9: the greatest integer not above a finite value; none where R9 calls it undefined. -/
def floorInt : Fp → Option Int
  | .nan => none
  | .inf _ => none
  | .fin neg mag => some (signedUnits neg mag / (unitsPerOne : Int))

/-- A non-negative integer constant written in float position (R9). -/
def fpNat (n : Nat) : Fp := .fin false (n * unitsPerOne)

/-- The constant 0.5 (R9). -/
def fpHalf : Fp := .fin false (2 ^ 148)

end Sys2Proof.Machine
end

