-- ==== Sys2Proof/Machine/State.lean ====
section
/-! DEFINITION. The state record of 10_state.md R23, the result port of 30_encoding.md R56, and the two fields of the
model's own (the host's commands not yet issued, the count of NaN draws). Plain data. -/

namespace Sys2Proof.Machine

/-- The kinds of model-level fault: "Exactly one fault kind exists" (R162). -/
inductive FaultKind where
  /-- DISPTEMP's integer conversion has no meaning (R113). -/
  | renderDomain
deriving DecidableEq, Repr

/-- What the fault mark records (R23, R162): the kind, the channel and the clamped temperature. -/
structure FaultRecord where
  kind : FaultKind
  ch : Channel
  temp : Binary32
deriving DecidableEq, Repr

/-- A value on the result port, with the width R56 gives each operation. SETRGB and CLRDISP present none. -/
inductive Result where
  /-- CEL2FER: `tempF`, binary32. -/
  | tempF (v : Binary32)
  /-- GETLIM: the limit, 7 bits. -/
  | limit (v : Limit)
  /-- GETFMT: the format flag, true for Fahrenheit. -/
  | format (fahrenheit : Bool)
  /-- DISPLIM: the LED mirror word, 16 bits. -/
  | ledWord (v : Half)
  /-- DISPTEMP: `isHundredPlus`. -/
  | hundredPlus (v : Bool)
  /-- DISPDP: the decimal-point mask, 8 bits. -/
  | dpMask (v : Byte)
deriving DecidableEq, Repr

/-- The state of the block and of the host's side of its command port. `none` in an output register is the spec's own
value: "the register holds no value: nothing has written it since reset" (R23, log 3). -/
structure State where
  /-- DIGIT[0..7], the digit slots (R24). -/
  digit : Vector (Option Byte) 8
  /-- DPMASK, the decimal-point mask (R26). -/
  dpmask : Option Byte
  /-- DUTY[0..7], the PWM duty channels (R27). -/
  duty : Vector (Option Binary32) 8
  /-- LED, the LED mirror word (R29). -/
  led : Option Half
  /-- The model-level fault mark (R30, R162). -/
  fault : Option FaultRecord
  /-- The model-level refusal mark (R30, R163). -/
  refused : Bool
  /-- The result port after the last operation (R56, log 8). -/
  result : Option Result
  /-- MODEL's own: the commands the host has yet to issue, the next one first (R21, R189, log 1). -/
  pending : List Command
  /-- MODEL's own: how many NaN draws have been made (92 D16, log 7). -/
  draws : Nat
deriving DecidableEq, Repr

/-- Reasons a step stops with a fault. There is none: "No operation in the core is fallible" (R160), and the model-level
fault of R162 is a mark in the state after which the block accepts the next command (R165), so that a step which sets it
answers a next state (log 4). -/
inductive Fault where
deriving DecidableEq, Repr

/-- Reasons a step has no meaning. An illegal command word is none of them: it sets the refusal mark of R163 and the block
accepts the next command (R165, log 5). -/
inductive Refusal where
  /-- Raised by an arm of `exec` for an instruction that has no meaning yet; safe. No arm raises it. -/
  | notModelled (mnemonic : String)
deriving DecidableEq, Repr

/-- The state after reset (R34, R180): no output register holds a value, no mark is set, nothing is on the result port
(log 8), the host has issued nothing (log 1) and nothing has been drawn (log 7). -/
def State.reset : State :=
  { digit := Vector.replicate 8 none
    dpmask := none
    duty := Vector.replicate 8 none
    led := none
    fault := none
    refused := false
    result := none
    pending := []
    draws := 0 }

end Sys2Proof.Machine
end

