-- ==== Sys2Proof/Machine/Ops.lean ====
section
/-! DEFINITION. The named operations over the state: reading and writing the register files by index, the result port,
the model-level fault and refusal, the NaN draw, and taking the host's next command. The block has no trap entry and no
return from one (R165, R166): what stands in their place is `raiseFault` and `refuseCommand`, which set a mark and write
no register. -/

namespace Sys2Proof.Machine

/-- DIGIT[i] (R24), for the observer of the outputs: no operation of the block reads it (R35). -/
def readDigit (s : State) (i : Fin 8) : Option Byte := s.digit[i]

/-- DUTY[i] (R27), for the observer of the outputs. -/
def readDuty (s : State) (i : Fin 8) : Option Binary32 := s.duty[i]

/-- DIGIT[i] <- v (R8, R44). -/
def writeDigit (i : Fin 8) (v : Byte) (s : State) : State := { s with digit := s.digit.set i (some v) }

/-- DUTY[i] <- v (R8, R44). -/
def writeDuty (i : Fin 8) (v : Binary32) (s : State) : State := { s with duty := s.duty.set i (some v) }

/-- DPMASK <- v (R8, R44). -/
def writeDpmask (v : Byte) (s : State) : State := { s with dpmask := some v }

/-- LED <- v (R8, R44). -/
def writeLed (v : Half) (s : State) : State := { s with led := some v }

/-- `result <- v`, or no result: an earlier operation's result is not held over (R8, R56). -/
def present (r : Option Result) (s : State) : State := { s with result := r }

/-- Slot base + k of a channel's half of DIGIT, base 0 or 4 (R25, R41). -/
def slotOf (ch : Channel) (k : Fin 4) : Fin 8 :=
  match ch with
  | .external => ⟨k.val, by omega⟩
  | .internal => ⟨4 + k.val, by omega⟩

/-- Channel base + k of a channel's duty triple, base 0 or 3: blue, green, red (R28, R41). -/
def dutyOf (ch : Channel) (k : Fin 3) : Fin 8 :=
  match ch with
  | .external => ⟨k.val, by omega⟩
  | .internal => ⟨3 + k.val, by omega⟩

/-- The record the mark holds after a fault `new`: `new` when the mark was not set; when it was, R162 does not say which
of the two stands, and the choice is free (log 6). -/
def recordAfter (old : Option FaultRecord) (new : FaultRecord) : FaultRecord :=
  match old with
  | none => new
  | some r => if Config.faultKeepsFirst then r else new

/-- `raise Fault(RenderDomain, info)` (R8, R162): the mark is set, no register is written, no result is returned. -/
def raiseFault (ch : Channel) (temp : Binary32) (s : State) : State :=
  { s with
    fault := some (recordAfter s.fault { kind := .renderDomain, ch := ch, temp := temp })
    result := none }

/-- A command word that spells no operation (R163): the refusal mark is set, no register is written, no result is
returned. -/
def refuseCommand (s : State) : State := { s with refused := true, result := none }

/-- The NaN of the next draw (92 D16, log 7). -/
def nextNaN (s : State) : Binary32 := nanOfDraw (Config.nanDraw s.draws)

/-- Count one draw, so that the next one is a value of its own. -/
def countDraw (s : State) : State := { s with draws := s.draws + 1 }

/-- Present a float value as CEL2FER's result; a NaN is drawn (R70, R72). -/
def presentFloat (v : Fp) (s : State) : State :=
  let t := present (some (.tempF (pack (nextNaN s) v))) s
  if isNaN v then countDraw t else t

/-- The host issues its next command: the command, and the state with it taken off the list (R50, R185, log 1). -/
def takeCommand (s : State) : Option (Command × State) :=
  match s.pending with
  | [] => none
  | c :: rest => some (c, { s with pending := rest })

/-- The host has one more command to issue, ahead of the others (log 1). -/
def putCommand (c : Command) (s : State) : State := { s with pending := c :: s.pending }

end Sys2Proof.Machine
end

