-- ==== Sys2Proof/Machine/AlertColor.lean ====
section
/-! DEFINITION. AlertColorSelector (42_alert_color.md): SETRGB. -/

namespace Sys2Proof.Machine

/-- The green duty of a colour (R100). -/
def greenDuty : AlertColor → Binary32
  | .green => Config.dutyOn
  | .red => dutyOff

/-- The red duty of a colour (R100). -/
def redDuty : AlertColor → Binary32
  | .green => dutyOff
  | .red => Config.dutyOn

/-- SETRGB (R100): blue off, green and red as the colour says, one atomic step (log 11), no result. -/
def execSetrgb (ch : Channel) (color : AlertColor) (s : State) : Host.Outcome State Fault Refusal :=
  .next (present none
    (writeDuty (dutyOf ch 2) (redDuty color)
      (writeDuty (dutyOf ch 1) (greenDuty color)
        (writeDuty (dutyOf ch 0) dutyOff s))))

end Sys2Proof.Machine
end

