-- ==== Sys2Proof/Machine/DecimalPoint.lean ====
section
/-! DEFINITION. DecimalPointPlacer (44_decimal_point.md): DISPDP. -/

namespace Sys2Proof.Machine

/-- The four rows of R140, as data: "reproduce the table exactly" (R141). Internal flag first. -/
def decimalPointMask : Bool → Bool → Byte
  | true, true => 0x22#8
  | true, false => 0x24#8
  | false, true => 0x42#8
  | false, false => 0x44#8

/-- DISPDP (R140): DPMASK and the result are the table's mask. -/
def execDispdp (intOH extOH : Bool) (s : State) : Host.Outcome State Fault Refusal :=
  .next (present (some (.dpMask (decimalPointMask intOH extOH))) (writeDpmask (decimalPointMask intOH extOH) s))

end Sys2Proof.Machine
end

