-- ==== Sys2Proof/Machine/DisplayClear.lean ====
section
/-! DEFINITION. DisplayClearer (45_display_clear.md): CLRDISP. -/

namespace Sys2Proof.Machine

/-- BLANK into every slot of DIGIT (R150). -/
def blankDigits (s : State) : State := (List.finRange 8).foldl (fun t i => writeDigit i blankPattern t) s

/-- CLRDISP (R150): all eight slots BLANK, DPMASK 0x00, no result. -/
def execClrdisp (s : State) : Host.Outcome State Fault Refusal :=
  .next (present none (writeDpmask 0x00#8 (blankDigits s)))

end Sys2Proof.Machine
end

