-- ==== Sys2Proof/Machine/FormatConverter.lean ====
section
/-! DEFINITION. FormatConverter (40_format_converter.md): CEL2FER. -/

namespace Sys2Proof.Machine

/-- The formula of R70 in its evaluation order: multiply by 9, divide by 5, add 32, each rounded once (R71). -/
def celsiusToFahrenheit (c : Fp) : Fp := fadd (fdiv (fmul c (fpNat 9)) (fpNat 5)) (fpNat 32)

/-- CEL2FER (R70): a result, and no register written. -/
def execCel2fer (tc : Binary32) (s : State) : Host.Outcome State Fault Refusal :=
  .next (presentFloat (celsiusToFahrenheit (unpack tc)) s)

end Sys2Proof.Machine
end

