-- ==== Sys2Proof/Machine/LimitDecoder.lean ====
section
/-! DEFINITION. LimitDecoder (41_limit_decoder_mirror.md section 1): GETLIM and GETFMT. -/

namespace Sys2Proof.Machine

/-- GETLIM (R80): the channel's limit field, and no register written. -/
def execGetlim (ch : Channel) (w : Half) (s : State) : Host.Outcome State Fault Refusal :=
  .next (present (some (.limit (switchLimit ch w))) s)

/-- GETFMT (R81): the channel's format bit, and no register written. -/
def execGetfmt (ch : Channel) (w : Half) (s : State) : Host.Outcome State Fault Refusal :=
  .next (present (some (.format (switchFormat ch w))) s)

end Sys2Proof.Machine
end

