-- ==== Sys2Proof/Machine/LimitMirror.lean ====
section
/-! DEFINITION. LimitMirror (41_limit_decoder_mirror.md section 2): DISPLIM. -/

namespace Sys2Proof.Machine

/-- The LED mirror word of two limits, both masked whatever their range (R84, R85). -/
def mirrorWord (a b : IntWord) : Half := ((maskLimit b <<< 8) ||| maskLimit a).truncate 16

/-- DISPLIM (R84): LED and the result are the mirror word. -/
def execDisplim (a b : IntWord) (s : State) : Host.Outcome State Fault Refusal :=
  .next (present (some (.ledWord (mirrorWord a b))) (writeLed (mirrorWord a b) s))

end Sys2Proof.Machine
end

