-- ==== Sys2Proof/Machine/Flags.lean ====
section
/-! DEFINITION. The block has no flag register (10_state.md R32): its condition values are results and operands that the
host carries. The format flag is `switchFormat` (Machine/Operands.lean), the alert colour is an operand, and the
over-hundred flag is computed here. -/

namespace Sys2Proof.Machine

/-- `isHundredPlus`: the rounded whole temperature is at least 100 (R12, R117). -/
def hundredPlus (whole : Int) : Bool := decide (100 ≤ whole)

end Sys2Proof.Machine
end

