-- ==== Sys2Proof/Machine/TemperatureRenderer.lean ====
section
/-! DEFINITION. TemperatureRenderer (43_temperature_renderer.md): DISPTEMP, step by step as R110 writes it. -/

namespace Sys2Proof.Machine

/-- Step 1 of R110: the temperature `useF` selects; the other has no effect (R111). -/
def selectTemp (useF : Bool) (tc tf : Binary32) : Binary32 := if useF then tf else tc

/-- Step 2 of R110: a temperature below 0 becomes +0.0; -0.0 and NaN are kept (R111). -/
def clampTemp (temp : Binary32) : Binary32 := if flt (unpack temp) (fpNat 0) then 0x00000000#32 else temp

/-- `s` of R110: ten times the temperature plus a half, each primitive rounded once (R112). -/
def scaledTenths (t : Fp) : Fp := fadd (fmul t (fpNat 10)) fpHalf

/-- Whether the integer conversion has no meaning: `s` is a NaN or at least 2^(INT_W-1) (R113). -/
def outsideDomain (t : Fp) : Bool :=
  isNaN (scaledTenths t) || fge (scaledTenths t) (fpNat (2 ^ (Config.intW - 1)))

/-- The two integers of steps 3 and 4 of R110. -/
structure Rendering where
  tenthsScaled : Int
  whole : Int
deriving DecidableEq, Repr

/-- Steps 3 and 4 of R110, with the dual rounding policy kept as two branches (R115); none is the fault of R113. -/
def renderTemp (t : Fp) : Option Rendering :=
  if outsideDomain t then none
  else
    match floorInt (scaledTenths t) with
    | none => none
    | some tenthsScaled =>
      if fge t (fpNat 100) then
        match floorInt (fadd t fpHalf) with
        | none => none
        | some whole => some { tenthsScaled := tenthsScaled, whole := whole }
      else some { tenthsScaled := tenthsScaled, whole := tenthsScaled / 10 }

/-- What step 7 writes at base+3: a digit or BLANK (R118, R119). -/
def highSlot (r : Rendering) : Byte :=
  if hundredPlus r.whole then digitPattern (r.whole / 100 % 10)
  else if 10 ≤ r.whole then digitPattern (r.whole / 10 % 10)
  else blankPattern

/-- What step 7 writes at base+2 (R118, R119). -/
def midSlot (r : Rendering) : Byte :=
  if hundredPlus r.whole then digitPattern (r.whole / 10 % 10) else digitPattern (r.whole % 10)

/-- What step 7 writes at base+1 (R118, R119). -/
def lowSlot (r : Rendering) : Byte :=
  if hundredPlus r.whole then digitPattern (r.whole % 10) else digitPattern (r.tenthsScaled % 10)

/-- Step 7 of R110 and the glyph of R120: the four slots of the channel's half. -/
def writeHalf (ch : Channel) (useF : Bool) (r : Rendering) (s : State) : State :=
  writeDigit (slotOf ch 0) (unitGlyph useF)
    (writeDigit (slotOf ch 1) (lowSlot r)
      (writeDigit (slotOf ch 2) (midSlot r)
        (writeDigit (slotOf ch 3) (highSlot r) s)))

/-- DISPTEMP (R110): the four slots and the over-hundred flag, or the model-level fault with nothing written (R113,
R162). -/
def execDisptemp (ch : Channel) (tc tf : Binary32) (useF : Bool) (s : State) : Host.Outcome State Fault Refusal :=
  let temp := clampTemp (selectTemp useF tc tf)
  match renderTemp (unpack temp) with
  | none => .next (raiseFault ch temp s)
  | some r => .next (present (some (.hundredPlus (hundredPlus r.whole))) (writeHalf ch useF r s))

end Sys2Proof.Machine
end

