-- ==== Sys2Proof/Machine/Dispatch.lean ====
section
/-! DEFINITION. One arm per constructor of Instr, each one direct call of the instruction's meaning. -/

namespace Sys2Proof.Machine

def exec (i : Instr) (s : State) : Host.Outcome State Fault Refusal :=
  match i with
  | .cel2fer tc => Sys2Proof.Machine.execCel2fer tc s
  | .getlim ch w => Sys2Proof.Machine.execGetlim ch w s
  | .getfmt ch w => Sys2Proof.Machine.execGetfmt ch w s
  | .displim a b => Sys2Proof.Machine.execDisplim a b s
  | .setrgb ch color => Sys2Proof.Machine.execSetrgb ch color s
  | .disptemp ch tc tf useF => Sys2Proof.Machine.execDisptemp ch tc tf useF s
  | .dispdp intOH extOH => Sys2Proof.Machine.execDispdp intOH extOH s
  | .clrdisp => Sys2Proof.Machine.execClrdisp s

end Sys2Proof.Machine
end

