-- ==== Sys2Proof/Machine/Step.lean ====
section
/-! DEFINITION. One step: the host issues its next command and the block performs it (R50, R186); and the placing of one
command where the next step takes it. -/

namespace Sys2Proof.Machine

/-- One step. With no command to issue the block does nothing (R180, R189, log 2); an illegal command word is refused at
decode, before any operand is examined (R163, R164). -/
def step (s : State) : Host.Outcome State Fault Refusal :=
  match takeCommand s with
  | none => .next s
  | some (c, t) =>
    match decode c with
    | .error _ => .next (refuseCommand t)
    | .ok i => exec i t

/-- The state whose next step issues the instruction with bits `w` (log 1, log 15). -/
def State.withFetchWord (s : State) (nbits w : Nat) : State := putCommand (commandOfBits nbits w) s

end Sys2Proof.Machine
end

