-- ==== Sys2Proof/Machine/HostLoop.lean ====
section
/-! DEFINITION. The host's side of the contract, which the block does not check: the alert colour (R101), clearing before
rendering (R182), and the loop iteration of R187, in which the host carries each result from the result port to the
operand port that needs it (R183, R184). -/

namespace Sys2Proof.Machine

/-- HOST CONTRACT (R101): the colour the host passes to SETRGB, Red when the temperature it compares strictly exceeds the
limit. Which temperature that is, and what a NaN gives, are the host's open parameters (log 12). -/
def hostAlertColor (limit : Limit) (useF : Bool) (tc tf : Binary32) : AlertColor :=
  let t := match Config.alertCompare with
    | .celsius => tc
    | .displayUnit => selectTemp useF tc tf
  let hot := match unpack t with
    | .nan => Config.alertOfNaN
    | .inf neg => !neg
    | .fin neg mag => flt (fpNat limit.toNat) (.fin neg mag)
  if hot then .red else .green

/-- The host issues one operation and waits for it to complete (R185): the step that the command gives (log 1). -/
def issue (i : Instr) (s : State) : Option State :=
  match step (putCommand (encode i) s) with
  | .next t => some t
  | .fault _ => none
  | .refused _ => none

/-- The host issues a list of operations in order. -/
def issueAll : List Instr → State → Option State
  | [], s => some s
  | i :: rest, s => (issue i s).bind (issueAll rest)

/-- The result port read as a limit (R56). -/
def portLimit (s : State) : Option Limit :=
  match s.result with
  | some (.limit v) => some v
  | _ => none

/-- The result port read as a format flag (R56). -/
def portFormat (s : State) : Option Bool :=
  match s.result with
  | some (.format v) => some v
  | _ => none

/-- The result port read as a Fahrenheit temperature (R56). -/
def portTempF (s : State) : Option Binary32 :=
  match s.result with
  | some (.tempF v) => some v
  | _ => none

/-- The result port read as an over-hundred flag (R56); a DISPTEMP that faulted has none. -/
def portHundredPlus (s : State) : Option Bool :=
  match s.result with
  | some (.hundredPlus v) => some v
  | _ => none

/-- What the host reads from outside in one iteration: the switch word once (R183), and the two sensors. -/
structure HostInputs where
  w : Half
  tcE : Binary32
  tcI : Binary32
deriving DecidableEq, Repr

/-- The values of one iteration by their names in R187: the host's inputs, the results it carries, and the colours it
forms. -/
structure Iteration where
  inputs : HostInputs
  le : Limit
  li : Limit
  fe : Bool
  fi : Bool
  tfE : Binary32
  tfI : Binary32
  ce : AlertColor
  ci : AlertColor
  hE : Bool
  hI : Bool
deriving DecidableEq, Repr

/-- The thirteen operations of R187 in its order, each with the operands R187 gives it. -/
def Iteration.commands (h : Iteration) : List Instr :=
  [ .getlim .external h.inputs.w, .getlim .internal h.inputs.w,
    .getfmt .external h.inputs.w, .getfmt .internal h.inputs.w,
    .displim (h.le.zeroExtend 32) (h.li.zeroExtend 32),
    .cel2fer h.inputs.tcE, .cel2fer h.inputs.tcI,
    .setrgb .external h.ce, .setrgb .internal h.ci,
    .clrdisp,
    .disptemp .external h.inputs.tcE h.tfE h.fe, .disptemp .internal h.inputs.tcI h.tfI h.fi,
    .dispdp h.hI h.hE ]

/-- The canonical iteration (R187) from a state: each carried value is read from the result port right after the operation
that gives it, and the colours are formed from them (step 7, R101). None when a DISPTEMP faults: the host then has no flag
to pass to DISPDP (R162, R184). -/
def runIteration (inp : HostInputs) (s : State) : Option (Iteration × State) := do
  let s ← issue (.getlim .external inp.w) s
  let le ← portLimit s
  let s ← issue (.getlim .internal inp.w) s
  let li ← portLimit s
  let s ← issue (.getfmt .external inp.w) s
  let fe ← portFormat s
  let s ← issue (.getfmt .internal inp.w) s
  let fi ← portFormat s
  let s ← issue (.displim (le.zeroExtend 32) (li.zeroExtend 32)) s
  let s ← issue (.cel2fer inp.tcE) s
  let tfE ← portTempF s
  let s ← issue (.cel2fer inp.tcI) s
  let tfI ← portTempF s
  let ce := hostAlertColor le fe inp.tcE tfE
  let ci := hostAlertColor li fi inp.tcI tfI
  let s ← issue (.setrgb .external ce) s
  let s ← issue (.setrgb .internal ci) s
  let s ← issue .clrdisp s
  let s ← issue (.disptemp .external inp.tcE tfE fe) s
  let hE ← portHundredPlus s
  let s ← issue (.disptemp .internal inp.tcI tfI fi) s
  let hI ← portHundredPlus s
  let s ← issue (.dispdp hI hE) s
  some ({ inputs := inp, le := le, li := li, fe := fe, fi := fi, tfE := tfE, tfI := tfI, ce := ce, ci := ci,
          hE := hE, hI := hI }, s)

/-- A list of values is a canonical iteration from `s` to `t`: the one R187's data flow gives for its inputs. -/
def IsCanonicalIteration (h : Iteration) (s t : State) : Prop := runIteration h.inputs s = some (h, t)

/-- HOST DUTY (R182): a CLRDISP stands before the first DISPTEMP. -/
def clearsBeforeRendering : List Instr → Bool
  | [] => true
  | .clrdisp :: _ => true
  | .disptemp _ _ _ _ :: _ => false
  | .cel2fer _ :: rest => clearsBeforeRendering rest
  | .getlim _ _ :: rest => clearsBeforeRendering rest
  | .getfmt _ _ :: rest => clearsBeforeRendering rest
  | .displim _ _ :: rest => clearsBeforeRendering rest
  | .setrgb _ _ :: rest => clearsBeforeRendering rest
  | .dispdp _ _ :: rest => clearsBeforeRendering rest

end Sys2Proof.Machine
end

