-- ==== Sys2Proof/Safety.lean ====
section
/-! DEFINITION. The terms that claims about the block use: what the output registers may hold (R24 to R29), when a
temperature is outside DISPTEMP's domain (R113), what one rounding is (R6, R9), and when a run has ended well and the
display may be read (R181, R189). -/

namespace Sys2Proof.Machine

/-- What a step presents on the result port, where it answers a next state. -/
def resultOf : Host.Outcome State Fault Refusal → Option Result
  | .next t => t.result
  | .fault _ => none
  | .refused _ => none

/-- The next command of the host is the operation `i` (R50, R57). -/
def Issues (s : State) (i : Instr) : Prop := ∃ c rest, s.pending = c :: rest ∧ decode c = .ok i

/-- The ports that R55 names for an operation carry its operands; the other ports may hold anything. -/
def ReadsPorts : Instr → Ports → Prop
  | .cel2fer tc, p => p.tc = tc
  | .getlim _ w, p => p.w = w
  | .getfmt _ w, p => p.w = w
  | .displim a b, p => p.a = a ∧ p.b = b
  | .setrgb _ color, p => p.color = bitOfColor color
  | .disptemp _ tc tf useF, p => p.tc = tc ∧ p.tf = tf ∧ p.useF = BitVec.ofBool useF
  | .dispdp intOH extOH, p => p.intOH = BitVec.ofBool intOH ∧ p.extOH = BitVec.ofBool extOH
  | .clrdisp, _ => True

/-- The output registers of two states agree (R23). -/
abbrev SameOutputs (s t : State) : Prop :=
  t.digit = s.digit ∧ t.dpmask = s.dpmask ∧ t.duty = s.duty ∧ t.led = s.led

/-- The model-level marks of two states agree (R30). -/
abbrev SameMarks (s t : State) : Prop := t.fault = s.fault ∧ t.refused = s.refused

/-- The first slot of a channel's half of DIGIT (R13, R25). -/
def slotBase : Channel → Nat
  | .external => 0
  | .internal => 4

/-- The first duty channel of a channel's triple (R13, R28). -/
def dutyBase : Channel → Nat
  | .external => 0
  | .internal => 3

/-- A selected temperature for which DISPTEMP has no meaning: a NaN, or a value from 214748368.0 (0x4D4CCCCD) up to
+Infinity (R113). -/
abbrev OutsideRenderDomain (x : Binary32) : Prop :=
  isNaN (unpack x) = true ∨ (x.getLsbD 31 = false ∧ 0x4D4CCCCD ≤ x.toNat)

/-- A temperature that is not negative and at least the binary32 value with the bits `bits`; false of a NaN. -/
abbrev AtLeastBits (bits : Nat) (x : Binary32) : Prop :=
  isNaN (unpack x) = false ∧ x.getLsbD 31 = false ∧ bits ≤ x.toNat

/-- What a slot that shows digits may hold: nothing yet, a decimal digit, or BLANK (R24). -/
def legalDigitSlot : Option Byte → Bool
  | none => true
  | some v => decide (v.toNat ≤ 9) || v == blankPattern

/-- What slots 0 and 4 may hold: nothing yet, a unit glyph, or BLANK (R25, 90_conflicts.md C4). -/
def legalGlyphSlot : Option Byte → Bool
  | none => true
  | some v => v == 0x0C#8 || v == 0x0F#8 || v == blankPattern

/-- What DPMASK may hold: nothing yet, 0x00, or one of the four masks of DISPDP (R26, 90_conflicts.md C3). -/
def legalMask : Option Byte → Bool
  | none => true
  | some v => [0x00#8, 0x22#8, 0x24#8, 0x42#8, 0x44#8].contains v

/-- What a duty channel may hold: nothing yet, +0.0 or DUTY_ON (R27). -/
def legalDuty : Option Binary32 → Bool
  | none => true
  | some v => v == 0x00000000#32 || v == Config.dutyOn

/-- What LED may hold: nothing yet, or a word whose bits 7 and 15 are 0 (R29). -/
def legalLed : Option Half → Bool
  | none => true
  | some v => !v.getLsbD 7 && !v.getLsbD 15

/-- Every output register holds only what R24 to R29 allow it, and DUTY[6] and DUTY[7] hold nothing (R27, R34). -/
abbrev OutputsLegal (s : State) : Prop :=
  (∀ i : Fin 8, (if i.val % 4 = 0 then legalGlyphSlot (readDigit s i) else legalDigitSlot (readDigit s i)) = true) ∧
  legalMask s.dpmask = true ∧
  (∀ i : Fin 8, legalDuty (readDuty s i) = true) ∧
  readDuty s 6 = none ∧ readDuty s 7 = none ∧
  legalLed s.led = true

/-- The run has ended and no mark is set (R189). -/
abbrev EndedWell (s : State) : Prop := s.pending = [] ∧ s.fault = none ∧ s.refused = false

/-- Every output register that an operation can define has been written since reset, so that a claim may read it
(R181). -/
abbrev OutputsDefined (s : State) : Prop :=
  (∀ i : Fin 8, readDigit s i ≠ none) ∧ s.dpmask ≠ none ∧ (∀ i : Fin 8, i.val < 6 → readDuty s i ≠ none) ∧ s.led ≠ none

/-- `m` units is the quotient `num / den` units rounded to nearest, ties to even (R6, R9): it has at most 24 significant
bits, no such magnitude is nearer, and where another is as near the last significant bit of `m` is 0. -/
def NearestMagnitude (num den m : Nat) : Prop :=
  (∃ c k : Nat, c < 2 ^ 24 ∧ m = c * 2 ^ k) ∧
  ∀ c k : Nat, c < 2 ^ 24 →
    |(num : Int) - den * m| ≤ |(num : Int) - den * ((c * 2 ^ k : Nat) : Int)| ∧
    (|(num : Int) - den * m| = |(num : Int) - den * ((c * 2 ^ k : Nat) : Int)| → m ≠ c * 2 ^ k →
      m / 2 ^ (m.log2 - 23) % 2 = 0)

end Sys2Proof.Machine
end

