-- ==== Sys2Proof/Certificates/Slice0/Obligations.lean ====
section
/-! DEFINITION. The statements for the provers. Where a statement rests on a choice of the model, its docstring names the
log entry. -/

open Sys2Proof Sys2Proof.Machine

/-! ### Encoding -/

/-- Decoding the command that issues an operation gives that operation back (R52, R55, R57). -/
def Obligations.EncodedInstructionsDecodeToThemselves : Prop :=
  ∀ i : Instr, decode (encode i) = .ok i

/-- A command decodes to an operation exactly when it carries that operation's word and the ports R55 names for it carry
the operands: no other word decodes to it and no other port has an effect. -/
def Obligations.DecodingIsExactlyTheEncodingTable : Prop :=
  ∀ (c : Command) (i : Instr), decode c = .ok i ↔ c.word = (encode i).word ∧ ReadsPorts i c.ports

/-- R57's decoder on all 256 command words: the twelve words of R53 give their operations with the operands of the
ports, every other word is invalid. -/
def Obligations.DecoderMatchesTheTwelveWords : Prop :=
  ∀ p : Ports,
    decode { word := 0x00#8, ports := p } = .ok (.cel2fer p.tc) ∧
    decode { word := 0x01#8, ports := p } = .ok (.getlim .external p.w) ∧
    decode { word := 0x09#8, ports := p } = .ok (.getlim .internal p.w) ∧
    decode { word := 0x02#8, ports := p } = .ok (.getfmt .external p.w) ∧
    decode { word := 0x0A#8, ports := p } = .ok (.getfmt .internal p.w) ∧
    decode { word := 0x03#8, ports := p } = .ok (.displim p.a p.b) ∧
    decode { word := 0x04#8, ports := p } = .ok (.setrgb .external (if p.color = 1#1 then .red else .green)) ∧
    decode { word := 0x0C#8, ports := p } = .ok (.setrgb .internal (if p.color = 1#1 then .red else .green)) ∧
    decode { word := 0x05#8, ports := p } = .ok (.disptemp .external p.tc p.tf (p.useF == 1#1)) ∧
    decode { word := 0x0D#8, ports := p } = .ok (.disptemp .internal p.tc p.tf (p.useF == 1#1)) ∧
    decode { word := 0x06#8, ports := p } = .ok (.dispdp (p.intOH == 1#1) (p.extOH == 1#1)) ∧
    decode { word := 0x07#8, ports := p } = .ok .clrdisp ∧
    ∀ w : Byte, w ∉ legalWords → ∃ e, decode { word := w, ports := p } = .error e

/-- Sanity: a few words written out from R51 and R52, one of each family, with every operand port at zero. -/
def Obligations.SampleWordsDecode : Prop :=
  decodeTableWord 8 0b00000000 = some (.cel2fer 0) ∧
  decodeTableWord 8 0b00001001 = some (.getlim .internal 0) ∧
  decodeTableWord 8 0b00000010 = some (.getfmt .external 0) ∧
  decodeTableWord 8 0b00000011 = some (.displim 0 0) ∧
  decodeTableWord 8 0b00001100 = some (.setrgb .internal .green) ∧
  decodeTableWord 8 0b00000101 = some (.disptemp .external 0 0 false) ∧
  decodeTableWord 8 0b00000110 = some (.dispdp false false) ∧
  decodeTableWord 8 0b00000111 = some .clrdisp ∧
  decodeTableWord 8 0b00001111 = none

/-! ### The step -/

/-- A step runs the decoded instruction: the head of the host's list is taken off it (R50, R185; the list is the model's,
log 1), and with no command the block does nothing (log 2). -/
def Obligations.StepRunsTheDecodedInstruction : Prop :=
  (∀ (s : State) (c : Command) (rest : List Command) (i : Instr), s.pending = c :: rest → decode c = .ok i →
    step s = exec i { s with pending := rest }) ∧
  (∀ s : State, s.pending = [] → step s = .next s)

/-- The model's choice (log 1, log 15): the instruction placed by `withFetchWord` is the one the very next step runs. -/
def Obligations.PlacedWordIsRunByTheNextStep : Prop :=
  ∀ (s : State) (nbits w : Nat) (i : Instr), decodeTableWord nbits w = some i →
    step (s.withFetchWord nbits w) = exec i s

/-- Every step answers a next state and takes exactly one command off the host's list, when there is one. R47, R160 and
R185 give the strict sequence and the total operations; the list and the taking of its head are the model's (log 1), the
step at the empty list too (log 2), and that the marks do not stop the machine is its reading (log 4, log 5). -/
def Obligations.EveryStepAnswersAndTakesOneCommand : Prop :=
  ∀ s : State, ∃ t, step s = .next t ∧ t.pending = s.pending.tail

/-- An illegal command word (R54): it is one with non-zero reserved bits or one of the four words with the channel bit on
an operation without a channel; the decoder refuses it, the refusal mark is set, no register is written and no result is
presented. That the step answers a next state is the model's reading (log 5), and the list it takes the command from is
the model's (log 1). -/
def Obligations.IllegalWordsAreRefused : Prop :=
  ∀ (s : State) (c : Command) (rest : List Command), s.pending = c :: rest → c.word ∉ legalWords →
    (c.word.extractLsb' 4 4 ≠ 0#4 ∨ c.word ∈ [0x08#8, 0x0B#8, 0x0E#8, 0x0F#8]) ∧
    (∃ e, decode c = .error e) ∧
    ∃ t, step s = .next t ∧ t.refused = true ∧ t.result = none ∧ SameOutputs s t ∧ t.fault = s.fault ∧
      t.pending = rest ∧ t.draws = s.draws

/-! ### CEL2FER -/

/-- CEL2FER completes on every operand: its result stands for the value of R70's formula in R70's order, each primitive
rounded once (a NaN exactly where the formula gives one), and no register is written. -/
def Obligations.Cel2ferComputesTheFormula : Prop :=
  ∀ (tc : Binary32) (s : State), ∃ (t : State) (v : Binary32),
    exec (.cel2fer tc) s = .next t ∧ t.result = some (.tempF v) ∧
    unpack v = fadd (fdiv (fmul (unpack tc) (fpNat 9)) (fpNat 5)) (fpNat 32) ∧
    SameOutputs s t ∧ SameMarks s t ∧ t.pending = s.pending

/-- CEL2FER reads and writes no register, and from any two states the results for one operand are equal unless both are
NaNs (R72). -/
def Obligations.Cel2ferIsPure : Prop :=
  ∀ (tc : Binary32) (s s' : State), ∃ (t t' : State) (v v' : Binary32),
    exec (.cel2fer tc) s = .next t ∧ exec (.cel2fer tc) s' = .next t' ∧
    t.result = some (.tempF v) ∧ t'.result = some (.tempF v') ∧
    (v = v' ∨ (isNaN (unpack v) = true ∧ isNaN (unpack v') = true)) ∧
    SameOutputs s t ∧ SameMarks s t ∧ SameOutputs s' t' ∧ SameMarks s' t'

/-- Values R70 lists: both zeros give 32, -40 gives -40, 25 gives 77, the infinities pass through. -/
def Obligations.Cel2ferFixedValues : Prop :=
  ∀ s : State,
    resultOf (exec (.cel2fer 0x00000000#32) s) = some (.tempF 0x42000000#32) ∧
    resultOf (exec (.cel2fer 0x80000000#32) s) = some (.tempF 0x42000000#32) ∧
    resultOf (exec (.cel2fer 0xC2200000#32) s) = some (.tempF 0xC2200000#32) ∧
    resultOf (exec (.cel2fer 0x41C80000#32) s) = some (.tempF 0x429A0000#32) ∧
    resultOf (exec (.cel2fer 0x7F800000#32) s) = some (.tempF 0x7F800000#32) ∧
    resultOf (exec (.cel2fer 0xFF800000#32) s) = some (.tempF 0xFF800000#32)

/-- The overflow thresholds of R70: from 0x7DE38E39 up to +Infinity the result is +Infinity, from 0xFDE38E39 up to
-Infinity it is -Infinity, and below them in magnitude the result is finite. -/
def Obligations.Cel2ferOverflowThresholds : Prop :=
  ∀ (tc : Binary32) (s : State),
    (0x7DE38E39 ≤ tc.toNat ∧ tc.toNat ≤ 0x7F800000 →
      resultOf (exec (.cel2fer tc) s) = some (.tempF 0x7F800000#32)) ∧
    (0xFDE38E39 ≤ tc.toNat ∧ tc.toNat ≤ 0xFF800000 →
      resultOf (exec (.cel2fer tc) s) = some (.tempF 0xFF800000#32)) ∧
    (tc.toNat % 2 ^ 31 < 0x7DE38E39 → ∃ v neg mag,
      resultOf (exec (.cel2fer tc) s) = some (.tempF v) ∧ unpack v = .fin neg mag)

/-- A subnormal operand gives exactly 32 (R70). -/
def Obligations.Cel2ferOfSubnormalIsThirtyTwo : Prop :=
  ∀ (tc : Binary32) (s : State), tc.toNat % 2 ^ 31 < 2 ^ 23 →
    resultOf (exec (.cel2fer tc) s) = some (.tempF 0x42000000#32)

/-- No result of CEL2FER is subnormal (R70). -/
def Obligations.Cel2ferResultIsNeverSubnormal : Prop :=
  ∀ (tc : Binary32) (s : State), ∃ v, resultOf (exec (.cel2fer tc) s) = some (.tempF v) ∧
    ¬ (v.extractLsb' 23 8 = 0#8 ∧ v.extractLsb' 0 23 ≠ 0#23)

/-! ### LimitDecoder and LimitMirror -/

/-- GETLIM (R80): the channel's limit field, no register written; with its two command words. -/
def Obligations.GetlimReadsTheLimitField : Prop :=
  ∀ (ch : Channel) (w : Half) (s : State),
    (encode (.getlim ch w)).word = (match ch with | .external => 0x01#8 | .internal => 0x09#8) ∧
    ∃ (t : State) (l : Limit), exec (.getlim ch w) s = .next t ∧ t.result = some (.limit l) ∧
      l.toNat = (match ch with | .external => w.toNat % 128 | .internal => w.toNat / 256 % 128) ∧
      SameOutputs s t ∧ SameMarks s t ∧ t.pending = s.pending ∧ t.draws = s.draws

/-- GETFMT (R81): bit 7 or bit 15 of the switch word, no register written; with its two command words. -/
def Obligations.GetfmtReadsTheFormatBit : Prop :=
  ∀ (ch : Channel) (w : Half) (s : State),
    (encode (.getfmt ch w)).word = (match ch with | .external => 0x02#8 | .internal => 0x0A#8) ∧
    ∃ (t : State) (f : Bool), exec (.getfmt ch w) s = .next t ∧ t.result = some (.format f) ∧
      (f = true ↔ (match ch with | .external => w.toNat / 128 % 2 = 1 | .internal => w.toNat / 32768 = 1)) ∧
      SameOutputs s t ∧ SameMarks s t ∧ t.pending = s.pending ∧ t.draws = s.draws

/-- The four fields of the switch word are decoded independently: each result depends on its own bits alone (R82). -/
def Obligations.SwitchFieldsAreIndependent : Prop :=
  ∀ (w w' : Half) (s : State),
    resultOf (exec (.getlim .external w) s) = some (.limit ((w &&& 0x7F#16).setWidth 7)) ∧
    resultOf (exec (.getlim .internal w) s) = some (.limit (((w >>> 8) &&& 0x7F#16).setWidth 7)) ∧
    resultOf (exec (.getfmt .external w) s) = some (.format (w.getLsbD 7)) ∧
    resultOf (exec (.getfmt .internal w) s) = some (.format (w.getLsbD 15)) ∧
    (w &&& 0x007F#16 = w' &&& 0x007F#16 →
      resultOf (exec (.getlim .external w) s) = resultOf (exec (.getlim .external w') s)) ∧
    (w &&& 0x7F00#16 = w' &&& 0x7F00#16 →
      resultOf (exec (.getlim .internal w) s) = resultOf (exec (.getlim .internal w') s)) ∧
    (w &&& 0x0080#16 = w' &&& 0x0080#16 →
      resultOf (exec (.getfmt .external w) s) = resultOf (exec (.getfmt .external w') s)) ∧
    (w &&& 0x8000#16 = w' &&& 0x8000#16 →
      resultOf (exec (.getfmt .internal w) s) = resultOf (exec (.getfmt .internal w') s))

/-- DISPLIM (R84, R85): LED and the result are both limits masked to 7 bits and put together, whatever the operands'
range and sign, and nothing else is written. -/
def Obligations.DisplimFormsTheMirrorWord : Prop :=
  ∀ (a b : IntWord) (s : State),
    (encode (.displim a b)).word = 0x03#8 ∧
    ∃ (t : State) (word : Half), exec (.displim a b) s = .next t ∧ t.led = some word ∧
      t.result = some (.ledWord word) ∧
      word.toNat = b.toNat % 128 * 256 + a.toNat % 128 ∧
      (word.toNat : Int) = b.toInt % 128 * 256 + a.toInt % 128 ∧
      t.digit = s.digit ∧ t.dpmask = s.dpmask ∧ t.duty = s.duty ∧ SameMarks s t ∧
      t.pending = s.pending ∧ t.draws = s.draws

/-- The two limits of a switch word, put through DISPLIM, give the word with its format bits cleared (R86). -/
def Obligations.DecoderAndMirrorRoundTrip : Prop :=
  ∀ (w : Half) (s : State), ∃ (le li : Limit) (t₁ t₂ t₃ : State),
    exec (.getlim .external w) s = .next t₁ ∧ t₁.result = some (.limit le) ∧
    exec (.getlim .internal w) t₁ = .next t₂ ∧ t₂.result = some (.limit li) ∧
    exec (.displim (le.setWidth 32) (li.setWidth 32)) t₂ = .next t₃ ∧
    t₃.led = some (w &&& 0x7F7F#16) ∧ t₃.result = some (.ledWord (w &&& 0x7F7F#16))

/-! ### SETRGB -/

/-- SETRGB (R100): the channel's triple becomes blue off, green and red as the colour says, whatever it held before;
every other channel and register is as before and there is no result. -/
def Obligations.SetrgbWritesItsTriple : Prop :=
  ∀ (ch : Channel) (color : AlertColor) (s : State),
    (encode (.setrgb ch color)).word = (match ch with | .external => 0x04#8 | .internal => 0x0C#8) ∧
    ∃ t : State, exec (.setrgb ch color) s = .next t ∧ t.result = none ∧
      (∀ i : Fin 8, readDuty t i =
        if i.val = dutyBase ch then some 0x00000000#32
        else if i.val = dutyBase ch + 1 then some (if color = .green then 0x3E99999A#32 else 0x00000000#32)
        else if i.val = dutyBase ch + 2 then some (if color = .red then 0x3E99999A#32 else 0x00000000#32)
        else readDuty s i) ∧
      t.digit = s.digit ∧ t.dpmask = s.dpmask ∧ t.led = s.led ∧ SameMarks s t ∧
      t.pending = s.pending ∧ t.draws = s.draws

/-! ### DISPTEMP -/

/-- DISPTEMP has a meaning exactly inside the domain of R113: outside it the fault mark is set (to this fault's record
when it was clear), no register is written and no result returned; inside it the marks are as before and a flag is
presented. That a fault answers a next state, and what a second fault records, are the model's (log 4, log 6). -/
def Obligations.DisptempFaultsExactlyOutsideItsDomain : Prop :=
  ∀ (ch : Channel) (tc tf : Binary32) (useF : Bool) (s : State),
    (OutsideRenderDomain (selectTemp useF tc tf) →
      ∃ t r, exec (.disptemp ch tc tf useF) s = .next t ∧ t.fault = some r ∧
        (s.fault = none → r = { kind := .renderDomain, ch := ch, temp := selectTemp useF tc tf }) ∧
        t.result = none ∧ SameOutputs s t ∧ t.refused = s.refused ∧ t.pending = s.pending ∧ t.draws = s.draws) ∧
    (¬ OutsideRenderDomain (selectTemp useF tc tf) →
      ∃ t hp, exec (.disptemp ch tc tf useF) s = .next t ∧ t.result = some (.hundredPlus hp) ∧ SameMarks s t)

/-- DISPTEMP inside its domain (R110): with `n` the tenths of R112 and `w` the whole part of R115's two branches, the four
slots of the channel's half and the result are as R116 to R120 say, and every other slot and register is as before
(R121). -/
def Obligations.DisptempRendersTheSelectedTemperature : Prop :=
  ∀ (ch : Channel) (tc tf : Binary32) (useF : Bool) (s : State), ¬ OutsideRenderDomain (selectTemp useF tc tf) →
    ∃ (n w : Nat) (t : State),
      floorInt (fadd (fmul (unpack (clampTemp (selectTemp useF tc tf))) (fpNat 10)) fpHalf) = some (n : Int) ∧
      (if fge (unpack (clampTemp (selectTemp useF tc tf))) (fpNat 100) = true then
        floorInt (fadd (unpack (clampTemp (selectTemp useF tc tf))) fpHalf) = some (w : Int)
       else w = n / 10) ∧
      exec (.disptemp ch tc tf useF) s = .next t ∧
      t.result = some (.hundredPlus (decide (100 ≤ w))) ∧
      (∀ i : Fin 8, readDigit t i =
        if i.val = slotBase ch + 3 then
          some (if 100 ≤ w then BitVec.ofNat 8 (w / 100 % 10)
                else if 10 ≤ w then BitVec.ofNat 8 (w / 10 % 10) else 0xFF#8)
        else if i.val = slotBase ch + 2 then
          some (if 100 ≤ w then BitVec.ofNat 8 (w / 10 % 10) else BitVec.ofNat 8 (w % 10))
        else if i.val = slotBase ch + 1 then
          some (if 100 ≤ w then BitVec.ofNat 8 (w % 10) else BitVec.ofNat 8 (n % 10))
        else if i.val = slotBase ch then some (if useF = true then 0x0F#8 else 0x0C#8)
        else readDigit s i) ∧
      t.dpmask = s.dpmask ∧ t.duty = s.duty ∧ t.led = s.led ∧ SameMarks s t ∧
      t.pending = s.pending ∧ t.draws = s.draws

/-- Selection and clamp (R111): the operand not selected has no effect; a negative value or -Infinity becomes +0.0;
-0.0, NaNs and non-negative values are kept; -0.0 behaves as +0.0; a NaN has no rendering. -/
def Obligations.ClampReplacesNegativeTemperatures : Prop :=
  (∀ (ch : Channel) (tc tf x : Binary32) (s : State),
    exec (.disptemp ch tc tf true) s = exec (.disptemp ch x tf true) s ∧
    exec (.disptemp ch tc tf false) s = exec (.disptemp ch tc x false) s) ∧
  (∀ x : Binary32,
    clampTemp x =
      if isNaN (unpack x) = false ∧ x.getLsbD 31 = true ∧ x ≠ 0x80000000#32 then 0x00000000#32 else x) ∧
  (∀ (ch : Channel) (y : Binary32) (s : State),
    exec (.disptemp ch 0x80000000#32 y false) s = exec (.disptemp ch 0x00000000#32 y false) s ∧
    exec (.disptemp ch y 0x80000000#32 true) s = exec (.disptemp ch y 0x00000000#32 true) s) ∧
  (∀ x : Binary32, isNaN (unpack x) = true → renderTemp (unpack (clampTemp x)) = none)

/-- The first binary32 temperatures at which `tenthsScaled` reaches 1, 10, 100 and 1000 (R112), and the product that
makes the last of them. -/
def Obligations.TenthsRoundingThresholds : Prop :=
  (∀ (x : Binary32) (n : Int),
    floorInt (fadd (fmul (unpack (clampTemp x)) (fpNat 10)) fpHalf) = some n →
      (1 ≤ n ↔ AtLeastBits 0x3D4CCCCC x) ∧ (10 ≤ n ↔ AtLeastBits 0x3F733333 x) ∧
      (100 ≤ n ↔ AtLeastBits 0x411F3333 x) ∧ (1000 ≤ n ↔ AtLeastBits 0x42C7E666 x)) ∧
  fmul (unpack 0x42C7E666#32) (fpNat 10) = .fin false (1999 * 2 ^ 148) ∧
  floorInt (fadd (fmul (unpack 0x42C7E666#32) (fpNat 10)) fpHalf) = some 1000

/-- Whatever is rendered, `s` is at least 0.5, both integers are non-negative, so truncating and flooring division agree
on them, and every digit is in 0..9 (R114). -/
def Obligations.RenderedIntegersAreNonNegative : Prop :=
  ∀ (x : Binary32) (r : Rendering), renderTemp (unpack (clampTemp x)) = some r →
    fge (fadd (fmul (unpack (clampTemp x)) (fpNat 10)) fpHalf) fpHalf = true ∧
    0 ≤ r.tenthsScaled ∧ 0 ≤ r.whole ∧
    (∀ d ∈ [(10 : Int), 100], r.whole.tdiv d = r.whole / d) ∧ r.tenthsScaled.tdiv 10 = r.tenthsScaled / 10 ∧
    (∀ d ∈ [r.whole / 100, r.whole / 10, r.whole, r.tenthsScaled], d.tmod 10 = d % 10 ∧ 0 ≤ d % 10 ∧ d % 10 ≤ 9)

/-- The dual rounding policy stays two branches chosen on the clamped temperature (R115), and the values R115 gives: 9.76
has whole 9, 100.5 has whole 101, 150.7 has whole 151. -/
def Obligations.DualRoundingKeepsTwoBranches : Prop :=
  (∀ (x : Binary32) (r : Rendering), renderTemp (unpack (clampTemp x)) = some r →
    (fge (unpack (clampTemp x)) (fpNat 100) = true →
      floorInt (fadd (unpack (clampTemp x)) fpHalf) = some r.whole) ∧
    (fge (unpack (clampTemp x)) (fpNat 100) = false → r.whole = r.tenthsScaled.tdiv 10)) ∧
  renderTemp (unpack (clampTemp 0x411C28F6#32)) = some { tenthsScaled := 98, whole := 9 } ∧
  renderTemp (unpack (clampTemp 0x42C90000#32)) = some { tenthsScaled := 1005, whole := 101 } ∧
  renderTemp (unpack (clampTemp 0x4316B333#32)) = some { tenthsScaled := 1507, whole := 151 }

/-- The over-hundred flag (R117): inside the domain it is 1 exactly for the selected temperatures from 0x42C7E666 on;
below 100.0 those have `tenthsScaled` 1000 and whole 100, and the branch below 100 never gives more than 100. -/
def Obligations.OverHundredFlagThreshold : Prop :=
  ∀ (ch : Channel) (tc tf : Binary32) (useF : Bool) (s : State), ¬ OutsideRenderDomain (selectTemp useF tc tf) →
    ∃ (t : State) (r : Rendering), exec (.disptemp ch tc tf useF) s = .next t ∧
      renderTemp (unpack (clampTemp (selectTemp useF tc tf))) = some r ∧
      t.result = some (.hundredPlus (decide (100 ≤ r.whole))) ∧
      (100 ≤ r.whole ↔ AtLeastBits 0x42C7E666 (selectTemp useF tc tf)) ∧
      (fge (unpack (clampTemp (selectTemp useF tc tf))) (fpNat 100) = true ↔
        AtLeastBits 0x42C80000 (selectTemp useF tc tf)) ∧
      (fge (unpack (clampTemp (selectTemp useF tc tf))) (fpNat 100) = true → 100 ≤ r.whole) ∧
      (fge (unpack (clampTemp (selectTemp useF tc tf))) (fpNat 100) = false →
        r.whole ≤ 100 ∧ (100 ≤ r.whole ↔ r.tenthsScaled = 1000))

/-- The under-100 layout (R119): inside the domain the tens slot is BLANK exactly below 0x411F3333; under 100 the ones
digit and the tenths digit are written even when zero; 0x411F3333 itself shows 1, 0, 0. -/
def Obligations.UnderHundredLayout : Prop :=
  (∀ (ch : Channel) (tc tf : Binary32) (useF : Bool) (s : State), ¬ OutsideRenderDomain (selectTemp useF tc tf) →
    ∃ (t : State) (r : Rendering), exec (.disptemp ch tc tf useF) s = .next t ∧
      renderTemp (unpack (clampTemp (selectTemp useF tc tf))) = some r ∧
      (readDigit t (slotOf ch 3) = some 0xFF#8 ↔ ¬ AtLeastBits 0x411F3333 (selectTemp useF tc tf)) ∧
      (r.whole < 100 →
        readDigit t (slotOf ch 3) =
          some (if 10 ≤ r.whole then BitVec.ofNat 8 (r.whole.toNat / 10 % 10) else 0xFF#8) ∧
        readDigit t (slotOf ch 2) = some (BitVec.ofNat 8 (r.whole.toNat % 10)) ∧
        readDigit t (slotOf ch 1) = some (BitVec.ofNat 8 (r.tenthsScaled.toNat % 10)))) ∧
  (∀ (ch : Channel) (y : Binary32) (s : State), ∃ t, exec (.disptemp ch 0x411F3333#32 y false) s = .next t ∧
    readDigit t (slotOf ch 3) = some 0x01#8 ∧ readDigit t (slotOf ch 2) = some 0x00#8 ∧
    readDigit t (slotOf ch 1) = some 0x00#8)

/-! ### DISPDP and CLRDISP -/

/-- DISPDP (R140): the four rows of the table to DPMASK and the result, exactly two bits set, one in each half, and
nothing else written. -/
def Obligations.DispdpSelectsTheTableMask : Prop :=
  ∀ (intOH extOH : Bool) (s : State),
    (encode (.dispdp intOH extOH)).word = 0x06#8 ∧
    ∃ (t : State) (mask : Byte), exec (.dispdp intOH extOH) s = .next t ∧
      t.dpmask = some mask ∧ t.result = some (.dpMask mask) ∧
      mask = (match intOH, extOH with
        | true, true => 0x22#8
        | true, false => 0x24#8
        | false, true => 0x42#8
        | false, false => 0x44#8) ∧
      (∃! k : Fin 4, mask.getLsbD k.val = true) ∧ (∃! k : Fin 4, mask.getLsbD (4 + k.val) = true) ∧
      t.digit = s.digit ∧ t.duty = s.duty ∧ t.led = s.led ∧ SameMarks s t ∧
      t.pending = s.pending ∧ t.draws = s.draws

/-- R142: when DISPDP is given the flag a channel's DISPTEMP has just presented, the one bit it sets in that channel's half
is the slot that holds the ones digit of the whole part. -/
def Obligations.DecimalPointFollowsTheOnesDigit : Prop :=
  ∀ (ch : Channel) (tc tf : Binary32) (useF other : Bool) (s : State),
    ¬ OutsideRenderDomain (selectTemp useF tc tf) →
    ∃ (t u : State) (r : Rendering) (hp : Bool) (mask : Byte) (k : Fin 4),
      exec (.disptemp ch tc tf useF) s = .next t ∧ t.result = some (.hundredPlus hp) ∧
      renderTemp (unpack (clampTemp (selectTemp useF tc tf))) = some r ∧
      exec (match ch with | .internal => .dispdp hp other | .external => .dispdp other hp) t = .next u ∧
      u.dpmask = some mask ∧
      (∀ j : Fin 4, mask.getLsbD (slotOf ch j).val = true ↔ j = k) ∧
      readDigit u (slotOf ch k) = some (BitVec.ofNat 8 (r.whole.toNat % 10))

/-- CLRDISP (R150) blanks all eight slots and clears the mask, writes nothing else and presents no result; a glyph slot
stays BLANK under every operation but its channel's DISPTEMP, and the mask stays 0x00 under every one but DISPDP; a second
CLRDISP leaves the state as it is (R151). -/
def Obligations.ClrdispBlanksTheDisplay : Prop :=
  ∀ s : State,
    (encode .clrdisp).word = 0x07#8 ∧
    ∃ t : State, exec .clrdisp s = .next t ∧ t.result = none ∧
      (∀ i : Fin 8, readDigit t i = some 0xFF#8) ∧ t.dpmask = some 0x00#8 ∧
      t.duty = s.duty ∧ t.led = s.led ∧ SameMarks s t ∧ t.pending = s.pending ∧ t.draws = s.draws ∧
      (∀ (i : Instr) (u : State), exec i t = .next u →
        (∀ ch, (∀ tc tf useF, i ≠ .disptemp ch tc tf useF) → readDigit u (slotOf ch 0) = some 0xFF#8) ∧
        ((∀ intOH extOH, i ≠ .dispdp intOH extOH) → u.dpmask = some 0x00#8)) ∧
      exec .clrdisp t = .next t

/-- R182: when both channels render inside their domain and DISPDP follows, the display ends the same with or without a
CLRDISP before them. -/
def Obligations.ClearIsUnobservableAfterBothRenders : Prop :=
  ∀ (tcE tfE tcI tfI : Binary32) (fE fI intOH extOH : Bool) (s : State),
    ¬ OutsideRenderDomain (selectTemp fE tcE tfE) → ¬ OutsideRenderDomain (selectTemp fI tcI tfI) →
    ∃ (t₀ t₁ t₂ t₃ u₁ u₂ u₃ : State),
      exec .clrdisp s = .next t₀ ∧
      exec (.disptemp .external tcE tfE fE) t₀ = .next t₁ ∧ exec (.disptemp .internal tcI tfI fI) t₁ = .next t₂ ∧
      exec (.dispdp intOH extOH) t₂ = .next t₃ ∧
      exec (.disptemp .external tcE tfE fE) s = .next u₁ ∧ exec (.disptemp .internal tcI tfI fI) u₁ = .next u₂ ∧
      exec (.dispdp intOH extOH) u₂ = .next u₃ ∧
      SameOutputs t₃ u₃

/-! ### Rules of the whole machine -/

/-- No operation reads an output register (R35): run from any two states, an operation presents the same result, unless
both results are NaNs, whose draws may differ (R72, log 7); and each register is either left as it was in both or holds
the same value in both. That a faulting DISPTEMP answers a next state is the model's reading (log 4). -/
def Obligations.OperationsReadNoOutputRegister : Prop :=
  ∀ (i : Instr) (s s' : State), ∃ t t' : State, exec i s = .next t ∧ exec i s' = .next t' ∧
    (t.result = t'.result ∨ ∃ v v' : Binary32, t.result = some (.tempF v) ∧ t'.result = some (.tempF v') ∧
      isNaN (unpack v) = true ∧ isNaN (unpack v') = true) ∧
    (∀ j : Fin 8, readDigit t j = readDigit t' j ∨
      (readDigit t j = readDigit s j ∧ readDigit t' j = readDigit s' j)) ∧
    (∀ j : Fin 8, readDuty t j = readDuty t' j ∨ (readDuty t j = readDuty s j ∧ readDuty t' j = readDuty s' j)) ∧
    (t.dpmask = t'.dpmask ∨ (t.dpmask = s.dpmask ∧ t'.dpmask = s'.dpmask)) ∧
    (t.led = t'.led ∨ (t.led = s.led ∧ t'.led = s'.led))

/-- Every operation is idempotent on the state record of R23 (R45): a second run with the same operands changes no output
register and no mark. That a faulting DISPTEMP answers a next state, both times, is the model's reading of R162 and R165
(log 4), and that the second fault leaves the record as the first left it holds whichever record log 6 lets stand. -/
def Obligations.OperationsAreIdempotent : Prop :=
  ∀ (i : Instr) (s : State), ∃ t u, exec i s = .next t ∧ exec i t = .next u ∧ SameOutputs t u ∧ SameMarks t u

/-- The marks (R30): clear at reset; a step sets `refused` exactly on an illegal command word and `fault` exactly on a
DISPTEMP outside its domain; neither is ever cleared. That such a step answers a next state is the model's reading
(log 4, log 5), and the list the command comes from is the model's (log 1). -/
def Obligations.MarksAreSetExactlyAndNeverCleared : Prop :=
  State.reset.fault = none ∧ State.reset.refused = false ∧
  ∀ s t : State, step s = .next t →
    (t.refused = true ↔ s.refused = true ∨ ∃ c rest, s.pending = c :: rest ∧ c.wellFormed = false) ∧
    (t.fault ≠ none ↔ s.fault ≠ none ∨
      ∃ ch tc tf useF, Issues s (.disptemp ch tc tf useF) ∧ OutsideRenderDomain (selectTemp useF tc tf))

/-- Only the operations R24, R26, R27 and R29 name as its writers change a register, each only in its channel's part;
DUTY[6] and DUTY[7] never change. The list the command comes from is the model's (log 1). -/
def Obligations.OnlyTheNamedWritersChangeRegisters : Prop :=
  ∀ s t : State, step s = .next t →
    (∀ i : Fin 8, readDigit t i ≠ readDigit s i → Issues s .clrdisp ∨
      ∃ ch tc tf useF, Issues s (.disptemp ch tc tf useF) ∧ slotBase ch ≤ i.val ∧ i.val < slotBase ch + 4) ∧
    (t.dpmask ≠ s.dpmask → Issues s .clrdisp ∨ ∃ intOH extOH, Issues s (.dispdp intOH extOH)) ∧
    (∀ i : Fin 8, readDuty t i ≠ readDuty s i →
      ∃ ch color, Issues s (.setrgb ch color) ∧ dutyBase ch ≤ i.val ∧ i.val < dutyBase ch + 3) ∧
    (t.led ≠ s.led → ∃ a b, Issues s (.displim a b)) ∧
    readDuty t 6 = readDuty s 6 ∧ readDuty t 7 = readDuty s 7

/-- From every state whose output registers hold only what R24 to R29 allow, a step gives such a state. -/
def Obligations.StepKeepsOutputsLegal : Prop :=
  ∀ s t : State, OutputsLegal s → step s = .next t → OutputsLegal t

/-- The reset state's output registers hold only what R24 to R29 allow. -/
def Obligations.ResetOutputsAreLegal : Prop := OutputsLegal State.reset

/-- At reset no output register holds a value and no mark is set (R34), so no register may be read by a claim yet
(R181). -/
def Obligations.ResetDefinesNoRegister : Prop :=
  (∀ i : Fin 8, readDigit State.reset i = none ∧ readDuty State.reset i = none) ∧
  State.reset.dpmask = none ∧ State.reset.led = none ∧ State.reset.fault = none ∧ State.reset.refused = false ∧
  ¬ OutputsDefined State.reset

/-! ### Float primitives -/

/-- The rounding function `roundUnits` (R6): the magnitude `num / den` is rounded to a value with at most 24 significant
bits, no such value is nearer, and where another is as near, the one taken has an even last bit. That each primitive
applies it once to its exact result is FloatPrimitivesRoundOnce. -/
def Obligations.RoundingIsNearestTiesToEven : Prop :=
  ∀ num den : Nat, 0 < den →
    (∃ c k : Nat, c < 2 ^ 24 ∧ roundUnits num den = c * 2 ^ k) ∧
    ∀ c k : Nat, c < 2 ^ 24 →
      |(num : Int) - den * roundUnits num den| ≤ |(num : Int) - den * ((c * 2 ^ k : Nat) : Int)| ∧
      (|(num : Int) - den * roundUnits num den| = |(num : Int) - den * ((c * 2 ^ k : Nat) : Int)| →
        roundUnits num den ≠ c * 2 ^ k →
        roundUnits num den / 2 ^ ((roundUnits num den).log2 - 23) % 2 = 0)

/-- `fmul`, `fdiv` and `fadd` on finite operands give the exact product, quotient or sum rounded once to nearest, ties to
even, or an infinity of its sign when the rounded magnitude is 2^128 or more (R6, R9); a NaN operand gives a NaN. One unit
is 2^-149. The sign of an exactly zero sum, and of a zero product or quotient, is IEEE 754's (log 9). -/
def Obligations.FloatPrimitivesRoundOnce : Prop :=
  (∀ (n m : Bool) (a b : Nat), ∃ r, NearestMagnitude (a * b) (2 ^ 149) r ∧
    fmul (.fin n a) (.fin m b) = if 2 ^ 128 * 2 ^ 149 ≤ r then .inf (n ^^ m) else .fin (n ^^ m) r) ∧
  (∀ (n m : Bool) (a b : Nat), b ≠ 0 → ∃ r, NearestMagnitude (a * 2 ^ 149) b r ∧
    fdiv (.fin n a) (.fin m b) = if 2 ^ 128 * 2 ^ 149 ≤ r then .inf (n ^^ m) else .fin (n ^^ m) r) ∧
  (∀ (n m : Bool) (a b : Nat),
    let z : Int := (if n then -(a : Int) else a) + (if m then -(b : Int) else b)
    (z = 0 → fadd (.fin n a) (.fin m b) = .fin (n && m) 0) ∧
    (z ≠ 0 → ∃ r, NearestMagnitude z.natAbs 1 r ∧
      fadd (.fin n a) (.fin m b) =
        if 2 ^ 128 * 2 ^ 149 ≤ r then .inf (decide (z < 0)) else .fin (decide (z < 0)) r)) ∧
  (∀ x : Fp, fmul .nan x = .nan ∧ fmul x .nan = .nan ∧ fdiv .nan x = .nan ∧ fdiv x .nan = .nan ∧
    fadd .nan x = .nan ∧ fadd x .nan = .nan)

/-- Packing the value of an encoding that is no NaN gives the encoding back (R10): no bit of the layout is lost. -/
def Obligations.PackRestoresEveryNonNaN : Prop :=
  ∀ x nan : Binary32, isNaN (unpack x) = false → pack nan (unpack x) = x

/-- The NaN draw can be every NaN encoding and nothing else (92 D16, 93 U2; its form is the model's, log 7). -/
def Obligations.NaNDrawsAreExactlyTheNaNs : Prop :=
  ∀ x : Binary32, (∃ d, nanOfDraw d = x) ↔ (x.extractLsb' 23 8 = 0xFF#8 ∧ x.extractLsb' 0 23 ≠ 0#23)

/-! ### Host contract -/

/-- The host's colour for a channel shown in Celsius (R101): Red exactly when the temperature strictly exceeds the limit,
whatever the open parameter is; a NaN is left out (log 12). -/
def Obligations.HostAlertColorIsStrict : Prop :=
  ∀ (limit : Limit) (tc tf : Binary32), isNaN (unpack tc) = false →
    (hostAlertColor limit false tc tf = .red ↔ flt (fpNat limit.toNat) (unpack tc) = true)

/-- The iteration of R187: when both selected temperatures are inside DISPTEMP's domain it completes from every state, and
the values it carries are the results R187 says: the limits and formats of the one switch word, the Fahrenheit values of
CEL2FER, the flags of the two renders, the colours of R101. Its thirteen operations with these values lead to the same end
state, which has LED mirroring the limits, DPMASK following the two flags, every output defined (R181) and the marks as
before. A NaN's payload is free (log 7), so the domain is asked with one NaN standing for all; the host's list is the
model's (log 1), the open parameters of the colour are log 12. -/
def Obligations.CanonicalIterationCarriesItsResults : Prop :=
  ∀ (inp : HostInputs) (s : State),
    ¬ OutsideRenderDomain (selectTemp (inp.w.getLsbD 7) inp.tcE
        (pack 0x7FC00000#32 (celsiusToFahrenheit (unpack inp.tcE)))) →
    ¬ OutsideRenderDomain (selectTemp (inp.w.getLsbD 15) inp.tcI
        (pack 0x7FC00000#32 (celsiusToFahrenheit (unpack inp.tcI)))) →
    ∃ (h : Iteration) (u : State) (rE rI : Rendering),
      h.inputs = inp ∧ IsCanonicalIteration h s u ∧
      h.le.toNat = inp.w.toNat % 128 ∧ h.li.toNat = inp.w.toNat / 256 % 128 ∧
      h.fe = inp.w.getLsbD 7 ∧ h.fi = inp.w.getLsbD 15 ∧
      unpack h.tfE = fadd (fdiv (fmul (unpack inp.tcE) (fpNat 9)) (fpNat 5)) (fpNat 32) ∧
      unpack h.tfI = fadd (fdiv (fmul (unpack inp.tcI) (fpNat 9)) (fpNat 5)) (fpNat 32) ∧
      h.ce = hostAlertColor h.le h.fe inp.tcE h.tfE ∧ h.ci = hostAlertColor h.li h.fi inp.tcI h.tfI ∧
      renderTemp (unpack (clampTemp (selectTemp h.fe inp.tcE h.tfE))) = some rE ∧ h.hE = decide (100 ≤ rE.whole) ∧
      renderTemp (unpack (clampTemp (selectTemp h.fi inp.tcI h.tfI))) = some rI ∧ h.hI = decide (100 ≤ rI.whole) ∧
      issueAll h.commands s = some u ∧
      u.led = some (inp.w &&& 0x7F7F#16) ∧ u.dpmask = some (decimalPointMask h.hI h.hE) ∧
      OutputsDefined u ∧ SameMarks s u ∧ u.pending = s.pending
end

