-- ==== Sys2Proof/Laws/Float.lean ====
section
/-! SUPPORT. What the one rounding of the float primitives can do: it leaves representable magnitudes alone and it is
monotonic, so that a threshold is settled at its boundary values. -/

namespace Sys2Proof.Machine

/-! ### Rounding to a whole number -/

/-- Rounding answers the floor or one more. -/
theorem nearestEven_cases (num den : Nat) :
    (nearestEven num den = num / den ∧ 2 * (num % den) ≤ den) ∨
    (nearestEven num den = num / den + 1 ∧ den ≤ 2 * (num % den)) := by
  unfold nearestEven
  simp only
  split
  · right; omega
  · left; omega

/-- A whole number at or above the quotient is at or above its rounding. -/
theorem nearestEven_le {num den c : Nat} (hd : 0 < den) (h : num ≤ c * den) : nearestEven num den ≤ c := by
  have hdiv := Nat.div_add_mod num den
  have hq : num / den ≤ c := Nat.div_le_of_le_mul (by rw [Nat.mul_comm]; exact h)
  rcases nearestEven_cases num den with ⟨he, _⟩ | ⟨he, hr⟩
  · omega
  · have hlt : num / den < c := by
      by_contra hc
      have : num / den = c := by omega
      rw [this] at hdiv
      have : den * c = c * den := Nat.mul_comm _ _
      omega
    omega

/-- A whole number at or below the quotient is at or below its rounding. -/
theorem le_nearestEven {num den c : Nat} (hd : 0 < den) (h : c * den ≤ num) : c ≤ nearestEven num den := by
  have hq : c ≤ num / den := (Nat.le_div_iff_mul_le hd).2 h
  rcases nearestEven_cases num den with ⟨he, _⟩ | ⟨he, _⟩ <;> omega

/-- A whole quotient is its own rounding. -/
theorem nearestEven_exact {den : Nat} (c : Nat) (hd : 0 < den) : nearestEven (c * den) den = c :=
  Nat.le_antisymm (nearestEven_le hd le_rfl) (le_nearestEven hd le_rfl)

/-- Rounding to a whole number is monotonic in the quotient. -/
theorem nearestEven_mono {n d n' d' : Nat} (hd : 0 < d) (hd' : 0 < d') (h : n * d' ≤ n' * d) :
    nearestEven n d ≤ nearestEven n' d' := by
  have hq : n / d ≤ n' / d' := by
    rw [Nat.le_div_iff_mul_le hd']
    have h1 : n / d * d ≤ n := Nat.div_mul_le_self n d
    have h2 : n / d * d * d' ≤ n' * d := le_trans (Nat.mul_le_mul_right _ h1) h
    have h3 : n / d * d' * d ≤ n' * d := by
      calc n / d * d' * d = n / d * d * d' := by ring
        _ ≤ n' * d := h2
    exact Nat.le_of_mul_le_mul_right h3 hd
  rcases Nat.lt_or_ge (n / d) (n' / d') with hlt | hge
  · rcases nearestEven_cases n d with ⟨he, _⟩ | ⟨he, _⟩ <;>
      rcases nearestEven_cases n' d' with ⟨he', _⟩ | ⟨he', _⟩ <;> omega
  · have heq : n / d = n' / d' := le_antisymm hq hge
    have e1 := Nat.div_add_mod n d
    have e2 := Nat.div_add_mod n' d'
    have hr : n % d * d' ≤ n' % d' * d := by
      have l : n * d' = d * d' * (n / d) + n % d * d' := by
        conv_lhs => rw [← e1]
        ring
      have r : n' * d = d * d' * (n / d) + n' % d' * d := by
        conv_lhs => rw [← e2, ← heq]
        ring
      omega
    unfold nearestEven
    simp only
    split
    · rename_i hu
      have hup : d' < 2 * (n' % d') ∨ (2 * (n' % d') = d' ∧ n' / d' % 2 = 1) := by
        rcases hu with hgt | ⟨htie, hodd⟩
        · left
          by_contra hc
          have a1 : 2 * (n' % d') * d ≤ d' * d := Nat.mul_le_mul_right _ (by omega)
          have a2 : d * d' < 2 * (n % d) * d' := Nat.mul_lt_mul_of_pos_right hgt hd'
          have a3 : 2 * (n % d) * d' ≤ 2 * (n' % d') * d := by
            calc 2 * (n % d) * d' = 2 * (n % d * d') := by ring
              _ ≤ 2 * (n' % d' * d) := Nat.mul_le_mul_left _ hr
              _ = 2 * (n' % d') * d := by ring
          have a4 : d * d' = d' * d := Nat.mul_comm _ _
          omega
        · have a3 : d * d' ≤ 2 * (n' % d') * d := by
            calc d * d' = 2 * (n % d) * d' := by rw [htie]
              _ = 2 * (n % d * d') := by ring
              _ ≤ 2 * (n' % d' * d) := Nat.mul_le_mul_left _ hr
              _ = 2 * (n' % d') * d := by ring
          have a5 : d' ≤ 2 * (n' % d') := by
            apply Nat.le_of_mul_le_mul_right _ hd
            calc d' * d = d * d' := Nat.mul_comm _ _
              _ ≤ 2 * (n' % d') * d := a3
          rcases Nat.lt_or_ge d' (2 * (n' % d')) with hlt | hge'
          · exact .inl hlt
          · exact .inr ⟨le_antisymm hge' a5, by rw [← heq]; exact hodd⟩
      rw [if_pos hup]
      omega
    · split <;> omega

/-! ### Rounding to 24 significant bits -/

/-- The quotient lies below the next power of two above its leading 24 bits. -/
theorem div_lt_two_pow (num den : Nat) : num / den < 2 ^ (24 + dropped num den) := by
  have h := Nat.lt_log2_self (n := num / den)
  refine lt_of_lt_of_le h (Nat.pow_le_pow_right (by decide) ?_)
  unfold dropped
  omega

/-- When bits are dropped, the quotient has at least 24 above them. -/
theorem two_pow_le_div {num den : Nat} (h : 0 < dropped num den) : 2 ^ (23 + dropped num den) ≤ num / den := by
  have hne : num / den ≠ 0 := by
    intro h0
    simp [dropped, h0] at h
  have hl := Nat.log2_self_le hne
  unfold dropped at h ⊢
  rwa [show 23 + ((num / den).log2 - 23) = (num / den).log2 by omega]

/-- The rounding does not pass the next power of two. -/
theorem roundUnits_le_two_pow {num den : Nat} (hd : 0 < den) : roundUnits num den ≤ 2 ^ (24 + dropped num den) := by
  unfold roundUnits
  simp only
  rw [Nat.pow_add]
  apply Nat.mul_le_mul_right
  apply nearestEven_le (Nat.mul_pos hd (Nat.two_pow_pos _))
  have h := div_lt_two_pow num den
  have h2 : num < den * 2 ^ (24 + dropped num den) := by
    rw [Nat.mul_comm]
    exact (Nat.div_lt_iff_lt_mul hd).1 h
  calc num ≤ den * 2 ^ (24 + dropped num den) := le_of_lt h2
    _ = 2 ^ 24 * (den * 2 ^ dropped num den) := by rw [Nat.pow_add]; ring

/-- When bits are dropped, the rounding keeps the leading power of two. -/
theorem two_pow_le_roundUnits {num den : Nat} (hd : 0 < den) (h : 0 < dropped num den) :
    2 ^ (23 + dropped num den) ≤ roundUnits num den := by
  unfold roundUnits
  simp only
  rw [Nat.pow_add]
  apply Nat.mul_le_mul_right
  apply le_nearestEven (Nat.mul_pos hd (Nat.two_pow_pos _))
  have h1 := (Nat.le_div_iff_mul_le hd).1 (two_pow_le_div h)
  calc 2 ^ 23 * (den * 2 ^ dropped num den) = 2 ^ (23 + dropped num den) * den := by rw [Nat.pow_add]; ring
    _ ≤ num := h1

/-- Rounding is monotonic (R9, R113). -/
theorem roundUnits_mono {n d n' d' : Nat} (hd : 0 < d) (hd' : 0 < d') (h : n * d' ≤ n' * d) :
    roundUnits n d ≤ roundUnits n' d' := by
  have hq : n / d ≤ n' / d' := by
    rw [Nat.le_div_iff_mul_le hd']
    have h1 : n / d * d ≤ n := Nat.div_mul_le_self n d
    have h2 : n / d * d' * d ≤ n' * d := by
      calc n / d * d' * d = n / d * d * d' := by ring
        _ ≤ n * d' := Nat.mul_le_mul_right _ h1
        _ ≤ n' * d := h
    exact Nat.le_of_mul_le_mul_right h2 hd
  rcases Nat.lt_trichotomy (dropped n d) (dropped n' d') with hk | hk | hk
  · calc roundUnits n d ≤ 2 ^ (24 + dropped n d) := roundUnits_le_two_pow hd
      _ ≤ 2 ^ (23 + dropped n' d') := Nat.pow_le_pow_right (by decide) (by omega)
      _ ≤ roundUnits n' d' := two_pow_le_roundUnits hd' (by omega)
  · unfold roundUnits
    simp only
    rw [hk]
    apply Nat.mul_le_mul_right
    apply nearestEven_mono (Nat.mul_pos hd (Nat.two_pow_pos _)) (Nat.mul_pos hd' (Nat.two_pow_pos _))
    calc n * (d' * 2 ^ dropped n' d') = n * d' * 2 ^ dropped n' d' := by ring
      _ ≤ n' * d * 2 ^ dropped n' d' := Nat.mul_le_mul_right _ h
      _ = n' * (d * 2 ^ dropped n' d') := by ring
  · exfalso
    have h1 := two_pow_le_div (num := n) (den := d) (by omega)
    have h2 := div_lt_two_pow n' d'
    have h3 : 2 ^ (24 + dropped n' d') ≤ 2 ^ (23 + dropped n d) := Nat.pow_le_pow_right (by decide) (by omega)
    omega

/-- A magnitude with at most 24 significant bits is left as it is. -/
theorem roundUnits_exact {c k den : Nat} (hd : 0 < den) (hc : c < 2 ^ 24) :
    roundUnits (c * 2 ^ k * den) den = c * 2 ^ k := by
  have hq : c * 2 ^ k * den / den = c * 2 ^ k := Nat.mul_div_cancel _ hd
  have hk : dropped (c * 2 ^ k * den) den ≤ k := by
    unfold dropped
    rw [hq]
    rcases Nat.eq_zero_or_pos c with rfl | hpos
    · simp
    · have hlt : c * 2 ^ k < 2 ^ (24 + k) := by
        rw [Nat.pow_add]
        exact Nat.mul_lt_mul_of_pos_right hc (Nat.two_pow_pos k)
      have := (Nat.log2_lt (Nat.mul_pos hpos (Nat.two_pow_pos k)).ne').2 hlt
      omega
  obtain ⟨j, hj⟩ := Nat.exists_eq_add_of_le hk
  unfold roundUnits
  simp only
  generalize dropped (c * 2 ^ k * den) den = m at hj
  subst hj
  have e : c * 2 ^ (m + j) * den = c * 2 ^ j * (den * 2 ^ m) := by rw [Nat.pow_add]; ring
  rw [e, nearestEven_exact _ (Nat.mul_pos hd (Nat.two_pow_pos _)), Nat.pow_add]
  ring

/-! ### The primitives on finite values -/

/-- The product of two finite values is the rounded exact product. -/
@[simp] theorem fmul_fin (n m : Bool) (a b : Nat) :
    fmul (.fin n a) (.fin m b) = ofRatio (n ^^ m) (a * b) unitsPerOne := rfl

/-- A value is not a NaN when it is finite or infinite. -/
@[simp] theorem isNaN_fin (n : Bool) (a : Nat) : isNaN (.fin n a) = false := rfl

@[simp] theorem isNaN_inf (n : Bool) : isNaN (.inf n) = false := rfl

@[simp] theorem isNaN_nan : isNaN .nan = true := rfl

/-- One rounding never gives a NaN. -/
@[simp] theorem isNaN_ofRatio (n : Bool) (num den : Nat) : isNaN (ofRatio n num den) = false := by
  unfold ofRatio
  simp only
  split <;> rfl

/-- The exact conversion of a finite value to an integer. -/
@[simp] theorem floorInt_fin (n : Bool) (a : Nat) :
    floorInt (.fin n a) = some (signedUnits n a / (unitsPerOne : Int)) := rfl

end Sys2Proof.Machine
end

