-- ==== Sys2Proof/Laws/State.lean ====
section
/-! SUPPORT. One lemma per field per update of the state, each true by `rfl`, so that no proof unfolds a record update. -/

namespace Sys2Proof.Machine

@[simp] theorem writeDigit_digit (i : Fin 8) (v : Byte) (s : State) : (writeDigit i v s).digit = s.digit.set i (some v) := rfl
@[simp] theorem writeDigit_dpmask (i : Fin 8) (v : Byte) (s : State) : (writeDigit i v s).dpmask = s.dpmask := rfl
@[simp] theorem writeDigit_duty (i : Fin 8) (v : Byte) (s : State) : (writeDigit i v s).duty = s.duty := rfl
@[simp] theorem writeDigit_led (i : Fin 8) (v : Byte) (s : State) : (writeDigit i v s).led = s.led := rfl
@[simp] theorem writeDigit_fault (i : Fin 8) (v : Byte) (s : State) : (writeDigit i v s).fault = s.fault := rfl
@[simp] theorem writeDigit_refused (i : Fin 8) (v : Byte) (s : State) : (writeDigit i v s).refused = s.refused := rfl
@[simp] theorem writeDigit_result (i : Fin 8) (v : Byte) (s : State) : (writeDigit i v s).result = s.result := rfl
@[simp] theorem writeDigit_pending (i : Fin 8) (v : Byte) (s : State) : (writeDigit i v s).pending = s.pending := rfl
@[simp] theorem writeDigit_draws (i : Fin 8) (v : Byte) (s : State) : (writeDigit i v s).draws = s.draws := rfl

@[simp] theorem writeDuty_digit (i : Fin 8) (v : Binary32) (s : State) : (writeDuty i v s).digit = s.digit := rfl
@[simp] theorem writeDuty_dpmask (i : Fin 8) (v : Binary32) (s : State) : (writeDuty i v s).dpmask = s.dpmask := rfl
@[simp] theorem writeDuty_duty (i : Fin 8) (v : Binary32) (s : State) : (writeDuty i v s).duty = s.duty.set i (some v) := rfl
@[simp] theorem writeDuty_led (i : Fin 8) (v : Binary32) (s : State) : (writeDuty i v s).led = s.led := rfl
@[simp] theorem writeDuty_fault (i : Fin 8) (v : Binary32) (s : State) : (writeDuty i v s).fault = s.fault := rfl
@[simp] theorem writeDuty_refused (i : Fin 8) (v : Binary32) (s : State) : (writeDuty i v s).refused = s.refused := rfl
@[simp] theorem writeDuty_result (i : Fin 8) (v : Binary32) (s : State) : (writeDuty i v s).result = s.result := rfl
@[simp] theorem writeDuty_pending (i : Fin 8) (v : Binary32) (s : State) : (writeDuty i v s).pending = s.pending := rfl
@[simp] theorem writeDuty_draws (i : Fin 8) (v : Binary32) (s : State) : (writeDuty i v s).draws = s.draws := rfl

@[simp] theorem writeDpmask_digit (v : Byte) (s : State) : (writeDpmask v s).digit = s.digit := rfl
@[simp] theorem writeDpmask_dpmask (v : Byte) (s : State) : (writeDpmask v s).dpmask = some v := rfl
@[simp] theorem writeDpmask_duty (v : Byte) (s : State) : (writeDpmask v s).duty = s.duty := rfl
@[simp] theorem writeDpmask_led (v : Byte) (s : State) : (writeDpmask v s).led = s.led := rfl
@[simp] theorem writeDpmask_fault (v : Byte) (s : State) : (writeDpmask v s).fault = s.fault := rfl
@[simp] theorem writeDpmask_refused (v : Byte) (s : State) : (writeDpmask v s).refused = s.refused := rfl
@[simp] theorem writeDpmask_result (v : Byte) (s : State) : (writeDpmask v s).result = s.result := rfl
@[simp] theorem writeDpmask_pending (v : Byte) (s : State) : (writeDpmask v s).pending = s.pending := rfl
@[simp] theorem writeDpmask_draws (v : Byte) (s : State) : (writeDpmask v s).draws = s.draws := rfl

@[simp] theorem writeLed_digit (v : Half) (s : State) : (writeLed v s).digit = s.digit := rfl
@[simp] theorem writeLed_dpmask (v : Half) (s : State) : (writeLed v s).dpmask = s.dpmask := rfl
@[simp] theorem writeLed_duty (v : Half) (s : State) : (writeLed v s).duty = s.duty := rfl
@[simp] theorem writeLed_led (v : Half) (s : State) : (writeLed v s).led = some v := rfl
@[simp] theorem writeLed_fault (v : Half) (s : State) : (writeLed v s).fault = s.fault := rfl
@[simp] theorem writeLed_refused (v : Half) (s : State) : (writeLed v s).refused = s.refused := rfl
@[simp] theorem writeLed_result (v : Half) (s : State) : (writeLed v s).result = s.result := rfl
@[simp] theorem writeLed_pending (v : Half) (s : State) : (writeLed v s).pending = s.pending := rfl
@[simp] theorem writeLed_draws (v : Half) (s : State) : (writeLed v s).draws = s.draws := rfl

@[simp] theorem present_digit (r : Option Result) (s : State) : (present r s).digit = s.digit := rfl
@[simp] theorem present_dpmask (r : Option Result) (s : State) : (present r s).dpmask = s.dpmask := rfl
@[simp] theorem present_duty (r : Option Result) (s : State) : (present r s).duty = s.duty := rfl
@[simp] theorem present_led (r : Option Result) (s : State) : (present r s).led = s.led := rfl
@[simp] theorem present_fault (r : Option Result) (s : State) : (present r s).fault = s.fault := rfl
@[simp] theorem present_refused (r : Option Result) (s : State) : (present r s).refused = s.refused := rfl
@[simp] theorem present_result (r : Option Result) (s : State) : (present r s).result = r := rfl
@[simp] theorem present_pending (r : Option Result) (s : State) : (present r s).pending = s.pending := rfl
@[simp] theorem present_draws (r : Option Result) (s : State) : (present r s).draws = s.draws := rfl

@[simp] theorem raiseFault_digit (ch : Channel) (temp : Binary32) (s : State) : (raiseFault ch temp s).digit = s.digit := rfl
@[simp] theorem raiseFault_dpmask (ch : Channel) (temp : Binary32) (s : State) : (raiseFault ch temp s).dpmask = s.dpmask := rfl
@[simp] theorem raiseFault_duty (ch : Channel) (temp : Binary32) (s : State) : (raiseFault ch temp s).duty = s.duty := rfl
@[simp] theorem raiseFault_led (ch : Channel) (temp : Binary32) (s : State) : (raiseFault ch temp s).led = s.led := rfl
@[simp] theorem raiseFault_fault (ch : Channel) (temp : Binary32) (s : State) : (raiseFault ch temp s).fault = some (recordAfter s.fault { kind := .renderDomain, ch := ch, temp := temp }) := rfl
@[simp] theorem raiseFault_refused (ch : Channel) (temp : Binary32) (s : State) : (raiseFault ch temp s).refused = s.refused := rfl
@[simp] theorem raiseFault_result (ch : Channel) (temp : Binary32) (s : State) : (raiseFault ch temp s).result = none := rfl
@[simp] theorem raiseFault_pending (ch : Channel) (temp : Binary32) (s : State) : (raiseFault ch temp s).pending = s.pending := rfl
@[simp] theorem raiseFault_draws (ch : Channel) (temp : Binary32) (s : State) : (raiseFault ch temp s).draws = s.draws := rfl

@[simp] theorem refuseCommand_digit (s : State) : (refuseCommand s).digit = s.digit := rfl
@[simp] theorem refuseCommand_dpmask (s : State) : (refuseCommand s).dpmask = s.dpmask := rfl
@[simp] theorem refuseCommand_duty (s : State) : (refuseCommand s).duty = s.duty := rfl
@[simp] theorem refuseCommand_led (s : State) : (refuseCommand s).led = s.led := rfl
@[simp] theorem refuseCommand_fault (s : State) : (refuseCommand s).fault = s.fault := rfl
@[simp] theorem refuseCommand_refused (s : State) : (refuseCommand s).refused = true := rfl
@[simp] theorem refuseCommand_result (s : State) : (refuseCommand s).result = none := rfl
@[simp] theorem refuseCommand_pending (s : State) : (refuseCommand s).pending = s.pending := rfl
@[simp] theorem refuseCommand_draws (s : State) : (refuseCommand s).draws = s.draws := rfl

@[simp] theorem countDraw_digit (s : State) : (countDraw s).digit = s.digit := rfl
@[simp] theorem countDraw_dpmask (s : State) : (countDraw s).dpmask = s.dpmask := rfl
@[simp] theorem countDraw_duty (s : State) : (countDraw s).duty = s.duty := rfl
@[simp] theorem countDraw_led (s : State) : (countDraw s).led = s.led := rfl
@[simp] theorem countDraw_fault (s : State) : (countDraw s).fault = s.fault := rfl
@[simp] theorem countDraw_refused (s : State) : (countDraw s).refused = s.refused := rfl
@[simp] theorem countDraw_result (s : State) : (countDraw s).result = s.result := rfl
@[simp] theorem countDraw_pending (s : State) : (countDraw s).pending = s.pending := rfl
@[simp] theorem countDraw_draws (s : State) : (countDraw s).draws = s.draws + 1 := rfl

@[simp] theorem putCommand_digit (c : Command) (s : State) : (putCommand c s).digit = s.digit := rfl
@[simp] theorem putCommand_dpmask (c : Command) (s : State) : (putCommand c s).dpmask = s.dpmask := rfl
@[simp] theorem putCommand_duty (c : Command) (s : State) : (putCommand c s).duty = s.duty := rfl
@[simp] theorem putCommand_led (c : Command) (s : State) : (putCommand c s).led = s.led := rfl
@[simp] theorem putCommand_fault (c : Command) (s : State) : (putCommand c s).fault = s.fault := rfl
@[simp] theorem putCommand_refused (c : Command) (s : State) : (putCommand c s).refused = s.refused := rfl
@[simp] theorem putCommand_result (c : Command) (s : State) : (putCommand c s).result = s.result := rfl
@[simp] theorem putCommand_pending (c : Command) (s : State) : (putCommand c s).pending = c :: s.pending := rfl
@[simp] theorem putCommand_draws (c : Command) (s : State) : (putCommand c s).draws = s.draws := rfl

@[simp] theorem reset_digit : State.reset.digit = Vector.replicate 8 none := rfl
@[simp] theorem reset_dpmask : State.reset.dpmask = none := rfl
@[simp] theorem reset_duty : State.reset.duty = Vector.replicate 8 none := rfl
@[simp] theorem reset_led : State.reset.led = none := rfl
@[simp] theorem reset_fault : State.reset.fault = none := rfl
@[simp] theorem reset_refused : State.reset.refused = false := rfl
@[simp] theorem reset_result : State.reset.result = none := rfl
@[simp] theorem reset_pending : State.reset.pending = [] := rfl
@[simp] theorem reset_draws : State.reset.draws = 0 := rfl

end Sys2Proof.Machine
end

