-- ==== Sys2Proof/Laws/Ops.lean ====
section
/-! SUPPORT. One lemma for each shared operation that says once everything it can do. -/

namespace Sys2Proof.Machine

/-! ### The index spaces (R41) -/

@[simp] theorem slotOf_external_val (k : Fin 4) : (slotOf .external k).val = k.val := rfl

@[simp] theorem slotOf_internal_val (k : Fin 4) : (slotOf .internal k).val = 4 + k.val := rfl

@[simp] theorem dutyOf_external_val (k : Fin 3) : (dutyOf .external k).val = k.val := rfl

@[simp] theorem dutyOf_internal_val (k : Fin 3) : (dutyOf .internal k).val = 3 + k.val := rfl

/-- Two slots are one only when both the channel and the offset are the same. -/
theorem slotOf_inj {ch ch' : Channel} {k k' : Fin 4} : slotOf ch k = slotOf ch' k' ↔ ch = ch' ∧ k = k' := by
  revert k k'
  cases ch <;> cases ch' <;> decide

/-- Two duty channels are one only when both the channel and the offset are the same. -/
theorem dutyOf_inj {ch ch' : Channel} {k k' : Fin 3} : dutyOf ch k = dutyOf ch' k' ↔ ch = ch' ∧ k = k' := by
  revert k k'
  cases ch <;> cases ch' <;> decide

/-- SETRGB forms no index above 5 (R41). -/
theorem dutyOf_val_lt_six (ch : Channel) (k : Fin 3) : (dutyOf ch k).val < 6 := by
  revert k
  cases ch <;> decide

/-! ### Reading a slot or a channel after an operation -/

/-- A slot write changes its own slot and no other (R44). -/
theorem readDigit_writeDigit (s : State) (i j : Fin 8) (v : Byte) :
    readDigit (writeDigit i v s) j = if i = j then some v else readDigit s j := by
  simp [readDigit, writeDigit, Vector.getElem_set, Fin.ext_iff]

/-- A duty write changes its own channel and no other (R44). -/
theorem readDuty_writeDuty (s : State) (i j : Fin 8) (v : Binary32) :
    readDuty (writeDuty i v s) j = if i = j then some v else readDuty s j := by
  simp [readDuty, writeDuty, Vector.getElem_set, Fin.ext_iff]

/-- Reading a slot depends on DIGIT alone. -/
theorem readDigit_congr {s t : State} (h : t.digit = s.digit) (i : Fin 8) : readDigit t i = readDigit s i := by
  simp [readDigit, h]

/-- Reading a duty channel depends on DUTY alone. -/
theorem readDuty_congr {s t : State} (h : t.duty = s.duty) (i : Fin 8) : readDuty t i = readDuty s i := by
  simp [readDuty, h]

/-- Two digit files that read alike in every slot are equal. -/
theorem digit_ext {s t : State} (h : ∀ i, readDigit t i = readDigit s i) : t.digit = s.digit := by
  apply Vector.ext
  intro i hi
  exact h ⟨i, hi⟩

/-- Two duty files that read alike in every channel are equal. -/
theorem duty_ext {s t : State} (h : ∀ i, readDuty t i = readDuty s i) : t.duty = s.duty := by
  apply Vector.ext
  intro i hi
  exact h ⟨i, hi⟩

@[simp] theorem readDigit_reset (i : Fin 8) : readDigit State.reset i = none := by
  simp [readDigit]

@[simp] theorem readDuty_reset (i : Fin 8) : readDuty State.reset i = none := by
  simp [readDuty]

/-! ### Blanking, faulting, drawing, taking a command -/

/-- Writing one value to a list of slots: the listed slots hold it, the others are as before. -/
theorem readDigit_foldl_writeDigit (l : List (Fin 8)) (v : Byte) (s : State) (i : Fin 8) :
    readDigit (l.foldl (fun t j => writeDigit j v t) s) i = if i ∈ l then some v else readDigit s i := by
  induction l generalizing s with
  | nil => simp
  | cons j l ih =>
    rw [List.foldl_cons, ih, readDigit_writeDigit]
    by_cases hj : j = i
    · simp [hj]
    · simp [hj, Ne.symm hj]

/-- Blanking writes BLANK to every slot (R150). -/
@[simp] theorem readDigit_blankDigits (s : State) (i : Fin 8) : readDigit (blankDigits s) i = some blankPattern := by
  simp [blankDigits, readDigit_foldl_writeDigit]

/-! Blanking changes DIGIT and nothing else. -/

@[simp] theorem blankDigits_dpmask (s : State) : (blankDigits s).dpmask = s.dpmask := rfl

@[simp] theorem blankDigits_duty (s : State) : (blankDigits s).duty = s.duty := rfl

@[simp] theorem blankDigits_led (s : State) : (blankDigits s).led = s.led := rfl

@[simp] theorem blankDigits_fault (s : State) : (blankDigits s).fault = s.fault := rfl

@[simp] theorem blankDigits_refused (s : State) : (blankDigits s).refused = s.refused := rfl

@[simp] theorem blankDigits_result (s : State) : (blankDigits s).result = s.result := rfl

@[simp] theorem blankDigits_pending (s : State) : (blankDigits s).pending = s.pending := rfl

@[simp] theorem blankDigits_draws (s : State) : (blankDigits s).draws = s.draws := rfl

/-- After a fault the mark is set, to the new record unless an older one may stand (R162, log 6). -/
theorem recordAfter_cases (old : Option FaultRecord) (new : FaultRecord) :
    recordAfter old new = new ∨ old = some (recordAfter old new) := by
  unfold recordAfter
  cases old with
  | none => exact .inl rfl
  | some r =>
    cases hk : Config.faultKeepsFirst
    · exact .inl (by simp)
    · exact .inr (by simp)

/-- A first fault records itself (R162). -/
@[simp] theorem recordAfter_none (new : FaultRecord) : recordAfter none new = new := rfl

/-- Presenting a float that is not a NaN. -/
theorem presentFloat_of_not_nan {v : Fp} (h : isNaN v = false) (s : State) :
    presentFloat v s = present (some (.tempF (pack (nextNaN s) v))) s := by
  simp [presentFloat, h]

/-- Presenting a NaN makes one draw (R72, log 7). -/
theorem presentFloat_nan (s : State) :
    presentFloat .nan s = countDraw (present (some (.tempF (nextNaN s))) s) := rfl

/-- Presenting a float changes the result port and the count of draws, and nothing else. -/
theorem presentFloat_frame (v : Fp) (s : State) :
    ∃ n, presentFloat v s = { s with result := some (.tempF (pack (nextNaN s) v)), draws := n } := by
  cases v
  · exact ⟨s.draws + 1, rfl⟩
  · exact ⟨s.draws, rfl⟩
  · exact ⟨s.draws, rfl⟩

/-- Taking a command answers the head of the list and leaves the rest. -/
theorem takeCommand_eq_some {s : State} {c : Command} {t : State} :
    takeCommand s = some (c, t) ↔ ∃ rest, s.pending = c :: rest ∧ t = { s with pending := rest } := by
  unfold takeCommand
  cases hp : s.pending with
  | nil => simp
  | cons d rest =>
    constructor
    · intro h
      simp only [Option.some.injEq, Prod.mk.injEq] at h
      exact ⟨rest, by rw [h.1], h.2.symm⟩
    · rintro ⟨r, hr, rfl⟩
      simp only [List.cons.injEq] at hr
      simp [hr.1, hr.2]

/-- No command is taken exactly when the host has none to issue. -/
theorem takeCommand_eq_none {s : State} : takeCommand s = none ↔ s.pending = [] := by
  unfold takeCommand
  cases s.pending <;> simp

/-- The command put in front is the next one taken, and taking it gives the state back. -/
@[simp] theorem takeCommand_putCommand (c : Command) (s : State) : takeCommand (putCommand c s) = some (c, s) := rfl

end Sys2Proof.Machine
end

