-- ==== Sys2Proof/Laws/Step.lean ====
section
/-! SUPPORT. What each meaning and the step can do, said once. -/

namespace Sys2Proof.Machine

/-! ### The step -/

/-- With no command to issue the block does nothing. -/
theorem step_idle {s : State} (h : s.pending = []) : step s = .next s := by
  simp [step, takeCommand, h]

/-- An illegal command word is refused, whatever its operands (R163, R164). -/
theorem step_illegal {s : State} {c : Command} {rest : List Command} {e : Invalid} (h : s.pending = c :: rest)
    (hd : decode c = .error e) : step s = .next (refuseCommand { s with pending := rest }) := by
  simp [step, takeCommand, h, hd]

/-- Every meaning answers a next state. -/
theorem exec_next (i : Instr) (s : State) : ∃ t, exec i s = .next t := by
  cases i with
  | disptemp ch tc tf useF =>
    simp only [exec, execDisptemp]
    split
    · exact ⟨_, rfl⟩
    · exact ⟨_, rfl⟩
  | cel2fer tc => exact ⟨_, rfl⟩
  | getlim ch w => exact ⟨_, rfl⟩
  | getfmt ch w => exact ⟨_, rfl⟩
  | displim a b => exact ⟨_, rfl⟩
  | setrgb ch color => exact ⟨_, rfl⟩
  | dispdp intOH extOH => exact ⟨_, rfl⟩
  | clrdisp => exact ⟨_, rfl⟩

/-- All a step can do: idle, refuse an illegal word, or run the decoded instruction. -/
theorem step_cases {s t : State} (h : step s = .next t) :
    (s.pending = [] ∧ t = s) ∨
    (∃ c rest e, s.pending = c :: rest ∧ decode c = .error e ∧ t = refuseCommand { s with pending := rest }) ∨
    (∃ c rest i, s.pending = c :: rest ∧ decode c = .ok i ∧ exec i { s with pending := rest } = .next t) := by
  cases hp : s.pending with
  | nil =>
    rw [step_idle hp] at h
    exact .inl ⟨rfl, (Host.Outcome.next.inj h).symm⟩
  | cons c rest =>
    cases hd : decode c with
    | error e =>
      rw [step_illegal hp hd] at h
      exact .inr (.inl ⟨c, rest, e, rfl, hd, (Host.Outcome.next.inj h).symm⟩)
    | ok i =>
      refine .inr (.inr ⟨c, rest, i, rfl, hd, ?_⟩)
      simpa [step, takeCommand, hp, hd] using h

/-! ### DISPTEMP -/

/-- The four slots of a channel's half after a render, and every other slot as before (R121). -/
theorem readDigit_writeHalf (ch : Channel) (useF : Bool) (r : Rendering) (s : State) (i : Fin 8) :
    readDigit (writeHalf ch useF r s) i =
      if slotOf ch 0 = i then some (unitGlyph useF)
      else if slotOf ch 1 = i then some (lowSlot r)
      else if slotOf ch 2 = i then some (midSlot r)
      else if slotOf ch 3 = i then some (highSlot r)
      else readDigit s i := by
  simp only [writeHalf, readDigit_writeDigit]

@[simp] theorem writeHalf_dpmask (ch : Channel) (useF : Bool) (r : Rendering) (s : State) :
    (writeHalf ch useF r s).dpmask = s.dpmask := rfl

@[simp] theorem writeHalf_duty (ch : Channel) (useF : Bool) (r : Rendering) (s : State) :
    (writeHalf ch useF r s).duty = s.duty := rfl

@[simp] theorem writeHalf_led (ch : Channel) (useF : Bool) (r : Rendering) (s : State) :
    (writeHalf ch useF r s).led = s.led := rfl

@[simp] theorem writeHalf_fault (ch : Channel) (useF : Bool) (r : Rendering) (s : State) :
    (writeHalf ch useF r s).fault = s.fault := rfl

@[simp] theorem writeHalf_refused (ch : Channel) (useF : Bool) (r : Rendering) (s : State) :
    (writeHalf ch useF r s).refused = s.refused := rfl

@[simp] theorem writeHalf_pending (ch : Channel) (useF : Bool) (r : Rendering) (s : State) :
    (writeHalf ch useF r s).pending = s.pending := rfl

@[simp] theorem writeHalf_draws (ch : Channel) (useF : Bool) (r : Rendering) (s : State) :
    (writeHalf ch useF r s).draws = s.draws := rfl

/-- DISPTEMP where the temperature has no rendering (R113). -/
theorem execDisptemp_of_none {ch : Channel} {tc tf : Binary32} {useF : Bool} (s : State)
    (h : renderTemp (unpack (clampTemp (selectTemp useF tc tf))) = none) :
    execDisptemp ch tc tf useF s = .next (raiseFault ch (clampTemp (selectTemp useF tc tf)) s) := by
  simp only [execDisptemp, h]

/-- DISPTEMP where the temperature has a rendering (R110). -/
theorem execDisptemp_of_some {ch : Channel} {tc tf : Binary32} {useF : Bool} {r : Rendering} (s : State)
    (h : renderTemp (unpack (clampTemp (selectTemp useF tc tf))) = some r) :
    execDisptemp ch tc tf useF s =
      .next (present (some (.hundredPlus (hundredPlus r.whole))) (writeHalf ch useF r s)) := by
  simp only [execDisptemp, h]

/-- All DISPTEMP can do: raise the fault, or write its half and present the flag (R110, R113). -/
theorem execDisptemp_cases {ch : Channel} {tc tf : Binary32} {useF : Bool} {s t : State}
    (h : execDisptemp ch tc tf useF s = .next t) :
    (renderTemp (unpack (clampTemp (selectTemp useF tc tf))) = none ∧
      t = raiseFault ch (clampTemp (selectTemp useF tc tf)) s) ∨
    (∃ r, renderTemp (unpack (clampTemp (selectTemp useF tc tf))) = some r ∧
      t = present (some (.hundredPlus (hundredPlus r.whole))) (writeHalf ch useF r s)) := by
  unfold execDisptemp at h
  simp only at h
  split at h
  · exact .inl ⟨‹_›, (Host.Outcome.next.inj h).symm⟩
  · exact .inr ⟨_, ‹_›, (Host.Outcome.next.inj h).symm⟩

/-- When `renderTemp` has a meaning, and the integers it gives (R112, R113, R115). -/
theorem renderTemp_eq_some {t : Fp} {r : Rendering} :
    renderTemp t = some r ↔
      outsideDomain t = false ∧ floorInt (scaledTenths t) = some r.tenthsScaled ∧
        (if fge t (fpNat 100) = true then floorInt (fadd t fpHalf) = some r.whole
         else r.whole = r.tenthsScaled / 10) := by
  obtain ⟨n, w⟩ := r
  unfold renderTemp
  cases outsideDomain t with
  | true => simp
  | false =>
    cases floorInt (scaledTenths t) with
    | none => simp
    | some m =>
      cases fge t (fpNat 100) with
      | false =>
        simp only [Bool.false_eq_true, if_false, Option.some.injEq, Rendering.mk.injEq, true_and]
        constructor
        · rintro ⟨rfl, rfl⟩
          exact ⟨rfl, rfl⟩
        · rintro ⟨rfl, rfl⟩
          exact ⟨rfl, rfl⟩
      | true =>
        cases floorInt (fadd t fpHalf) with
        | none => simp
        | some v => simp

/-! ### SETRGB -/

/-- The duty file after SETRGB's three writes: every other channel as before (R100). -/
theorem readDuty_setrgb (ch : Channel) (b g r : Binary32) (s : State) (i : Fin 8) :
    readDuty (writeDuty (dutyOf ch 2) r (writeDuty (dutyOf ch 1) g (writeDuty (dutyOf ch 0) b s))) i =
      if dutyOf ch 2 = i then some r
      else if dutyOf ch 1 = i then some g
      else if dutyOf ch 0 = i then some b
      else readDuty s i := by
  simp only [readDuty_writeDuty]

end Sys2Proof.Machine
end

