-- ==== Sys2Proof/Laws/HostLoop.lean ====
section
/-! SUPPORT. What issuing one operation and reading the result port can do, and what a canonical iteration is made of. -/

namespace Sys2Proof.Machine

/-! ### Issuing -/

/-- Issuing an operation is performing it, where its command decodes to it. -/
theorem issue_of_exec {i : Instr} {s t : State} (hd : decode (encode i) = .ok i) (h : exec i s = .next t) :
    issue i s = some t := by
  simp only [issue, step, takeCommand_putCommand, hd, h]

@[simp] theorem issueAll_nil (s : State) : issueAll [] s = some s := rfl

/-- Issuing a list is issuing its head and then the rest. -/
theorem issueAll_cons {i : Instr} {rest : List Instr} {s t : State} (h : issue i s = some t) :
    issueAll (i :: rest) s = issueAll rest t := by
  simp [issueAll, h]

/-! ### The result port -/

@[simp] theorem portLimit_present (v : Limit) (s : State) : portLimit (present (some (.limit v)) s) = some v := rfl

@[simp] theorem portFormat_present (v : Bool) (s : State) : portFormat (present (some (.format v)) s) = some v := rfl

@[simp] theorem portHundredPlus_present (v : Bool) (s : State) :
    portHundredPlus (present (some (.hundredPlus v)) s) = some v := rfl

/-- A faulting DISPTEMP leaves no flag to read (R162). -/
@[simp] theorem portHundredPlus_raiseFault (ch : Channel) (temp : Binary32) (s : State) :
    portHundredPlus (raiseFault ch temp s) = none := rfl

/-- CEL2FER always leaves a temperature to read (R70). -/
@[simp] theorem portTempF_presentFloat (v : Fp) (s : State) :
    portTempF (presentFloat v s) = some (pack (nextNaN s) v) := by
  obtain ⟨n, hn⟩ := presentFloat_frame v s
  rw [hn]
  rfl

/-! ### The iteration -/

/-- All a canonical iteration is (R187): each operation is issued after the one before it, each carried value is read from
the port after its own operation, and the colours are R101's. -/
theorem runIteration_eq_some {inp : HostInputs} {s t : State} {h : Iteration} :
    runIteration inp s = some (h, t) ↔
      h.inputs = inp ∧ h.ce = hostAlertColor h.le h.fe inp.tcE h.tfE ∧ h.ci = hostAlertColor h.li h.fi inp.tcI h.tfI ∧
      ∃ s₁ s₂ s₃ s₄ s₅ s₆ s₇ s₈ s₉ s₁₀ s₁₁ s₁₂,
      issue (.getlim .external inp.w) s = some s₁ ∧ portLimit s₁ = some h.le ∧
      issue (.getlim .internal inp.w) s₁ = some s₂ ∧ portLimit s₂ = some h.li ∧
      issue (.getfmt .external inp.w) s₂ = some s₃ ∧ portFormat s₃ = some h.fe ∧
      issue (.getfmt .internal inp.w) s₃ = some s₄ ∧ portFormat s₄ = some h.fi ∧
      issue (.displim (h.le.zeroExtend 32) (h.li.zeroExtend 32)) s₄ = some s₅ ∧
      issue (.cel2fer inp.tcE) s₅ = some s₆ ∧ portTempF s₆ = some h.tfE ∧
      issue (.cel2fer inp.tcI) s₆ = some s₇ ∧ portTempF s₇ = some h.tfI ∧
      issue (.setrgb .external h.ce) s₇ = some s₈ ∧
      issue (.setrgb .internal h.ci) s₈ = some s₉ ∧
      issue .clrdisp s₉ = some s₁₀ ∧
      issue (.disptemp .external inp.tcE h.tfE h.fe) s₁₀ = some s₁₁ ∧ portHundredPlus s₁₁ = some h.hE ∧
      issue (.disptemp .internal inp.tcI h.tfI h.fi) s₁₁ = some s₁₂ ∧ portHundredPlus s₁₂ = some h.hI ∧
      issue (.dispdp h.hI h.hE) s₁₂ = some t := by
  constructor
  · intro hr
    obtain ⟨s₁, h1, hr⟩ := Option.bind_eq_some_iff.1 hr
    obtain ⟨le, p1, hr⟩ := Option.bind_eq_some_iff.1 hr
    obtain ⟨s₂, h2, hr⟩ := Option.bind_eq_some_iff.1 hr
    obtain ⟨li, p2, hr⟩ := Option.bind_eq_some_iff.1 hr
    obtain ⟨s₃, h3, hr⟩ := Option.bind_eq_some_iff.1 hr
    obtain ⟨fe, p3, hr⟩ := Option.bind_eq_some_iff.1 hr
    obtain ⟨s₄, h4, hr⟩ := Option.bind_eq_some_iff.1 hr
    obtain ⟨fi, p4, hr⟩ := Option.bind_eq_some_iff.1 hr
    obtain ⟨s₅, h5, hr⟩ := Option.bind_eq_some_iff.1 hr
    obtain ⟨s₆, h6, hr⟩ := Option.bind_eq_some_iff.1 hr
    obtain ⟨tfE, p6, hr⟩ := Option.bind_eq_some_iff.1 hr
    obtain ⟨s₇, h7, hr⟩ := Option.bind_eq_some_iff.1 hr
    obtain ⟨tfI, p7, hr⟩ := Option.bind_eq_some_iff.1 hr
    obtain ⟨s₈, h8, hr⟩ := Option.bind_eq_some_iff.1 hr
    obtain ⟨s₉, h9, hr⟩ := Option.bind_eq_some_iff.1 hr
    obtain ⟨s₁₀, h10, hr⟩ := Option.bind_eq_some_iff.1 hr
    obtain ⟨s₁₁, h11, hr⟩ := Option.bind_eq_some_iff.1 hr
    obtain ⟨hE, p11, hr⟩ := Option.bind_eq_some_iff.1 hr
    obtain ⟨s₁₂, h12, hr⟩ := Option.bind_eq_some_iff.1 hr
    obtain ⟨hI, p12, hr⟩ := Option.bind_eq_some_iff.1 hr
    obtain ⟨u, h13, hr⟩ := Option.bind_eq_some_iff.1 hr
    obtain ⟨rfl, rfl⟩ := Prod.mk.inj (Option.some.inj hr)
    exact ⟨rfl, rfl, rfl, s₁, s₂, s₃, s₄, s₅, s₆, s₇, s₈, s₉, s₁₀, s₁₁, s₁₂,
      h1, p1, h2, p2, h3, p3, h4, p4, h5, h6, p6, h7, p7, h8, h9, h10, h11, p11, h12, p12, h13⟩
  · rintro ⟨rfl, hce, hci, s₁, s₂, s₃, s₄, s₅, s₆, s₇, s₈, s₉, s₁₀, s₁₁, s₁₂,
      h1, p1, h2, p2, h3, p3, h4, p4, h5, h6, p6, h7, p7, h8, h9, h10, h11, p11, h12, p12, h13⟩
    unfold runIteration
    refine Option.bind_eq_some_iff.2 ⟨_, h1, ?_⟩
    refine Option.bind_eq_some_iff.2 ⟨_, p1, ?_⟩
    refine Option.bind_eq_some_iff.2 ⟨_, h2, ?_⟩
    refine Option.bind_eq_some_iff.2 ⟨_, p2, ?_⟩
    refine Option.bind_eq_some_iff.2 ⟨_, h3, ?_⟩
    refine Option.bind_eq_some_iff.2 ⟨_, p3, ?_⟩
    refine Option.bind_eq_some_iff.2 ⟨_, h4, ?_⟩
    refine Option.bind_eq_some_iff.2 ⟨_, p4, ?_⟩
    refine Option.bind_eq_some_iff.2 ⟨_, h5, ?_⟩
    refine Option.bind_eq_some_iff.2 ⟨_, h6, ?_⟩
    refine Option.bind_eq_some_iff.2 ⟨_, p6, ?_⟩
    refine Option.bind_eq_some_iff.2 ⟨_, h7, ?_⟩
    refine Option.bind_eq_some_iff.2 ⟨_, p7, ?_⟩
    simp only
    rw [← hce, ← hci]
    refine Option.bind_eq_some_iff.2 ⟨_, h8, ?_⟩
    refine Option.bind_eq_some_iff.2 ⟨_, h9, ?_⟩
    refine Option.bind_eq_some_iff.2 ⟨_, h10, ?_⟩
    refine Option.bind_eq_some_iff.2 ⟨_, h11, ?_⟩
    refine Option.bind_eq_some_iff.2 ⟨_, p11, ?_⟩
    refine Option.bind_eq_some_iff.2 ⟨_, h12, ?_⟩
    refine Option.bind_eq_some_iff.2 ⟨_, p12, ?_⟩
    refine Option.bind_eq_some_iff.2 ⟨_, h13, ?_⟩
    rfl

/-- A canonical iteration issues its thirteen operations and nothing else. -/
theorem issueAll_commands_of_runIteration {inp : HostInputs} {s t : State} {h : Iteration}
    (hr : runIteration inp s = some (h, t)) : issueAll h.commands s = some t := by
  obtain ⟨rfl, -, -, s₁, s₂, s₃, s₄, s₅, s₆, s₇, s₈, s₉, s₁₀, s₁₁, s₁₂,
    h1, -, h2, -, h3, -, h4, -, h5, h6, -, h7, -, h8, h9, h10, h11, -, h12, -, h13⟩ := runIteration_eq_some.1 hr
  simp only [Iteration.commands]
  rw [issueAll_cons h1, issueAll_cons h2, issueAll_cons h3, issueAll_cons h4, issueAll_cons h5, issueAll_cons h6, issueAll_cons h7, issueAll_cons h8, issueAll_cons h9, issueAll_cons h10, issueAll_cons h11, issueAll_cons h12, issueAll_cons h13, issueAll_nil]

end Sys2Proof.Machine
end

