-- ==== Sys2Proof/Laws/PerInstr.lean ====
section
/-! SUPPORT. Laws about the instruction as syntax, one lemma per constructor. -/

namespace Sys2Proof.Laws.EncodeLegal

/-- The command that issues the operation carries one of the twelve legal words of R53, its reserved bits are zero, and
its channel bit is set only on an operation that takes a channel (R51). -/
def Statement (i : Instr) : Prop := (encode i).wellFormed = true ∧ (encode i).word ∈ legalWords

/-- The statement depends on the command word alone. -/
theorem of_word {i : Instr} {w : Byte} (hw : (encode i).word = w)
    (h : Command.wellFormed { word := w, ports := Ports.zero } = true ∧ w ∈ legalWords) : Statement i := by
  subst hw
  exact h

theorem cel2fer (tc : Binary32) : Statement (.cel2fer tc) := of_word (w := 0x00#8) rfl (by decide)

theorem getlim (ch : Channel) (w : Half) : Statement (.getlim ch w) := by
  cases ch
  · exact of_word (w := 0x01#8) rfl (by decide)
  · exact of_word (w := 0x09#8) rfl (by decide)

theorem getfmt (ch : Channel) (w : Half) : Statement (.getfmt ch w) := by
  cases ch
  · exact of_word (w := 0x02#8) rfl (by decide)
  · exact of_word (w := 0x0A#8) rfl (by decide)

theorem displim (a : IntWord) (b : IntWord) : Statement (.displim a b) := of_word (w := 0x03#8) rfl (by decide)

theorem setrgb (ch : Channel) (color : AlertColor) : Statement (.setrgb ch color) := by
  cases ch
  · exact of_word (w := 0x04#8) rfl (by decide)
  · exact of_word (w := 0x0C#8) rfl (by decide)

theorem disptemp (ch : Channel) (tc : Binary32) (tf : Binary32) (useF : Bool) :
    Statement (.disptemp ch tc tf useF) := by
  cases ch
  · exact of_word (w := 0x05#8) rfl (by decide)
  · exact of_word (w := 0x0D#8) rfl (by decide)

theorem dispdp (intOH : Bool) (extOH : Bool) : Statement (.dispdp intOH extOH) :=
  of_word (w := 0x06#8) rfl (by decide)

theorem clrdisp : Statement .clrdisp := of_word (w := 0x07#8) rfl (by decide)

end Sys2Proof.Laws.EncodeLegal
end

