-- ==== Sys2Proof/Laws/Render.lean ====
section
/-! SUPPORT. DISPTEMP's scaled temperature over the units of a non-negative finite temperature, and that it is monotonic:
a threshold of R112, R113, R117 or R119 is settled by evaluating it at the two neighbouring encodings. -/

namespace Sys2Proof.Machine

/-- The layout of R10 orders the magnitudes as it orders the bits. -/
theorem magOfBits_mono {b c : Nat} (h : b ≤ c) : magOfBits b ≤ magOfBits c := by
  have hq : b / 2 ^ 23 ≤ c / 2 ^ 23 := Nat.div_le_div_right h
  have hb := Nat.div_add_mod b (2 ^ 23)
  have hc := Nat.div_add_mod c (2 ^ 23)
  have lb : b % 2 ^ 23 < 2 ^ 23 := Nat.mod_lt _ (by decide)
  have lc : c % 2 ^ 23 < 2 ^ 23 := Nat.mod_lt _ (by decide)
  unfold magOfBits
  simp only
  generalize b / 2 ^ 23 = e at *
  generalize c / 2 ^ 23 = e' at *
  generalize b % 2 ^ 23 = f at *
  generalize c % 2 ^ 23 = f' at *
  rcases Nat.eq_or_lt_of_le hq with rfl | hlt
  · have hf : f ≤ f' := by omega
    split
    · exact hf
    · exact Nat.mul_le_mul_right _ (by omega)
  · have he' : e' ≠ 0 := by omega
    rw [if_neg he']
    have one : 1 ≤ 2 ^ (e' - 1) := Nat.one_le_two_pow
    split
    · calc f ≤ (2 ^ 23 + f') * 1 := by omega
        _ ≤ (2 ^ 23 + f') * 2 ^ (e' - 1) := Nat.mul_le_mul_left _ one
    · calc (2 ^ 23 + f) * 2 ^ (e - 1) ≤ 2 ^ 24 * 2 ^ (e - 1) := Nat.mul_le_mul_right _ (by omega)
        _ = 2 ^ 23 * 2 ^ e := by
          rw [show e = (e - 1) + 1 by omega, Nat.pow_succ, Nat.add_sub_cancel]
          ring
        _ ≤ 2 ^ 23 * 2 ^ (e' - 1) := Nat.mul_le_mul_left _ (Nat.pow_le_pow_right (by decide) (by omega))
        _ ≤ (2 ^ 23 + f') * 2 ^ (e' - 1) := Nat.mul_le_mul_right _ (by omega)

/-- The magnitude of R110's `s` in units, before overflow is looked at, for a non-negative finite temperature. -/
def tenthsUnits (mag : Nat) : Nat := roundUnits (roundUnits (mag * (10 * unitsPerOne)) unitsPerOne + 2 ^ 148) 1

/-- One is a positive number of units. -/
theorem unitsPerOne_pos : 0 < unitsPerOne := Nat.two_pow_pos 149

/-- `s` is monotonic in the temperature (R113). -/
theorem tenthsUnits_mono {a b : Nat} (h : a ≤ b) : tenthsUnits a ≤ tenthsUnits b := by
  unfold tenthsUnits
  apply roundUnits_mono Nat.one_pos Nat.one_pos
  simp only [Nat.mul_one]
  apply Nat.add_le_add_right
  apply roundUnits_mono unitsPerOne_pos unitsPerOne_pos
  exact Nat.mul_le_mul_right _ (Nat.mul_le_mul_right _ h)

/-- `s` of R110 for a non-negative finite temperature. -/
theorem scaledTenths_fin (mag : Nat) :
    scaledTenths (.fin false mag) =
      if overflowUnits ≤ roundUnits (mag * (10 * unitsPerOne)) unitsPerOne then .inf false
      else if overflowUnits ≤ tenthsUnits mag then .inf false
      else .fin false (tenthsUnits mag) := by
  simp only [scaledTenths, fpNat, fpHalf, fmul_fin, ofRatio, Bool.xor_false]
  split
  · rfl
  · simp only [fadd, signedUnits, Bool.false_eq_true, if_false]
    rw [if_neg (by have := Nat.two_pow_pos 148; omega)]
    have hz : ¬ ((roundUnits (mag * (10 * unitsPerOne)) unitsPerOne : Int) + ((2 ^ 148 : Nat) : Int) < 0) := by omega
    rw [show (roundUnits (mag * (10 * unitsPerOne)) unitsPerOne : Int) + ((2 ^ 148 : Nat) : Int) =
      ((roundUnits (mag * (10 * unitsPerOne)) unitsPerOne + 2 ^ 148 : Nat) : Int) by push_cast; rfl] at *
    simp only [hz, decide_false, ofRatio, Int.natAbs_natCast, tenthsUnits]
    rfl

/-- Outside the domain of R113, in units. -/
theorem outsideDomain_fin (mag : Nat) :
    outsideDomain (.fin false mag) = true ↔
      overflowUnits ≤ roundUnits (mag * (10 * unitsPerOne)) unitsPerOne ∨ 2 ^ 31 * unitsPerOne ≤ tenthsUnits mag := by
  have ho : 2 ^ 31 * unitsPerOne ≤ overflowUnits := Nat.mul_le_mul_right _ (by decide)
  unfold outsideDomain
  rw [scaledTenths_fin]
  split
  · simp_all [fge, flt, fpNat]
  · split
    · simp only [isNaN_inf, fge, flt, fpNat, Config.intW, Bool.false_or]
      simp
      omega
    · simp only [isNaN_fin, fge, flt, fpNat, signedUnits, Config.intW, Bool.false_or, Bool.not_eq_true']
      simp
      omega

/-- A temperature above one that is outside the domain is outside it (R113). -/
theorem outsideDomain_mono {a b : Nat} (h : a ≤ b) (ha : outsideDomain (.fin false a) = true) :
    outsideDomain (.fin false b) = true := by
  rw [outsideDomain_fin] at *
  rcases ha with ha | ha
  · left
    exact le_trans ha (roundUnits_mono unitsPerOne_pos unitsPerOne_pos
      (Nat.mul_le_mul_right _ (Nat.mul_le_mul_right _ h)))
  · right
    exact le_trans ha (tenthsUnits_mono h)

end Sys2Proof.Machine
end

