-- ==== Sys2Proof/Tests/Slice0.lean ====
section
/-! SUPPORT. The model's own tests. Expected values are the spec's vectors (95_test_vectors.md, by id) or the spec's
encoding tables; the last section gives, for each statement with hypotheses, a concrete case that meets them. -/

namespace Sys2Proof.Tests

open Sys2Proof Sys2Proof.Machine

/-! ### Checks on command words (R51, R54) -/

/-- A reserved bit is set. -/
theorem test_reserved_bit_ill_formed :
    Command.reservedClear { word := 0x10#8, ports := Ports.zero } = false ∧
    Command.wellFormed { word := 0x10#8, ports := Ports.zero } = false := by decide

/-- The channel bit is set on CEL2FER, which takes no channel. -/
theorem test_channel_bit_ill_formed :
    Command.channelAllowed { word := 0x08#8, ports := Ports.zero } = false ∧
    Command.wellFormed { word := 0x08#8, ports := Ports.zero } = false := by decide

/-- The legal words of R53 are the well-formed ones. -/
theorem test_legal_words_well_formed :
    legalWords.all (fun w => Command.wellFormed { word := w, ports := Ports.zero }) = true := by decide

/-! ### Decoding, each word written out as rsv, ch, op (R51, R52; 95 section 2.8) -/

/-- Ports that carry a different value each. -/
def ports : Ports :=
  { w := 0x9E28#16, tc := 0x42170000#32, tf := 0x42C7E666#32, a := 40#32, b := 30#32, color := 1#1, useF := 1#1,
    intOH := 1#1, extOH := 0#1 }

theorem test_decode_cel2fer : decode { word := 0b0000_0_000#8, ports := ports } = .ok (.cel2fer 0x42170000#32) := by
  decide

theorem test_decode_getlim : decode { word := 0b0000_0_001#8, ports := ports } = .ok (.getlim .external 0x9E28#16) ∧
    decode { word := 0b0000_1_001#8, ports := ports } = .ok (.getlim .internal 0x9E28#16) := by decide

theorem test_decode_getfmt : decode { word := 0b0000_0_010#8, ports := ports } = .ok (.getfmt .external 0x9E28#16) ∧
    decode { word := 0b0000_1_010#8, ports := ports } = .ok (.getfmt .internal 0x9E28#16) := by decide

theorem test_decode_displim : decode { word := 0b0000_0_011#8, ports := ports } = .ok (.displim 40#32 30#32) := by
  decide

theorem test_decode_setrgb : decode { word := 0b0000_0_100#8, ports := ports } = .ok (.setrgb .external .red) ∧
    decode { word := 0b0000_1_100#8, ports := ports } = .ok (.setrgb .internal .red) := by decide

theorem test_decode_disptemp :
    decode { word := 0b0000_0_101#8, ports := ports } =
      .ok (.disptemp .external 0x42170000#32 0x42C7E666#32 true) ∧
    decode { word := 0b0000_1_101#8, ports := ports } =
      .ok (.disptemp .internal 0x42170000#32 0x42C7E666#32 true) := by decide

/-- The internal flag is the first operand (R140). -/
theorem test_decode_dispdp : decode { word := 0b0000_0_110#8, ports := ports } = .ok (.dispdp true false) := by decide

theorem test_decode_clrdisp : decode { word := 0b0000_0_111#8, ports := ports } = .ok .clrdisp := by decide

/-- 95 section 2.8: words that are refused, with the reason the decoder gives. -/
theorem test_decode_invalid :
    decode { word := 0x0F#8, ports := ports } = .error (.channelBit 7#3) ∧
    decode { word := 0x15#8, ports := ports } = .error (.reservedBits 1#4) ∧
    decode { word := 0xFF#8, ports := ports } = .error (.reservedBits 15#4) := by decide

/-! ### One step of each operation -/

/-- A field of the next state. -/
def look {α : Type} (f : State → α) : Host.Outcome State Fault Refusal → Option α
  | .next t => some (f t)
  | .fault _ => none
  | .refused _ => none

/-- The four slots of a channel's half, from base+3 down to base+0. -/
def half (ch : Channel) (s : State) : List (Option Byte) := [3, 2, 1, 0].map fun k => readDigit s (slotOf ch k)

/-- Three duty channels of a channel. -/
def triple (ch : Channel) (s : State) : List (Option Binary32) := [0, 1, 2].map fun k => readDuty s (dutyOf ch k)

/-- V-C13: the evaluation order shows in the last bits. -/
theorem test_cel2fer_order :
    resultOf (exec (.cel2fer 0xC1A68F5C#32) State.reset) = some (.tempF 0xC0AF3B68#32) := by decide

/-- V-C17: the product overflows. -/
theorem test_cel2fer_overflow :
    resultOf (exec (.cel2fer 0x7DE38E39#32) State.reset) = some (.tempF 0x7F800000#32) := by decide

/-- V-L9 and V-L7. -/
theorem test_getlim : resultOf (exec (.getlim .external 0xA5C3#16) State.reset) = some (.limit 67#7) ∧
    resultOf (exec (.getlim .internal 0x9E28#16) State.reset) = some (.limit 30#7) := by decide

/-- V-L5 and V-L6. -/
theorem test_getfmt : resultOf (exec (.getfmt .external 0x0080#16) State.reset) = some (.format true) ∧
    resultOf (exec (.getfmt .internal 0x8000#16) State.reset) = some (.format true) ∧
    resultOf (exec (.getfmt .internal 0x0080#16) State.reset) = some (.format false) := by decide

/-- V-M8: a negative operand and one above 127. -/
theorem test_displim_masks : look State.led (exec (.displim (-129#32) 1000#32) State.reset) = some (some 0x687F#16) := by
  decide

/-- V-M10: the operands are not symmetric. -/
theorem test_displim_order : resultOf (exec (.displim 30#32 40#32) State.reset) = some (.ledWord 0x281E#16) := by decide

/-- V-R4. -/
theorem test_setrgb_internal_red :
    look (triple .internal) (exec (.setrgb .internal .red) State.reset) =
      some [some 0x00000000#32, some 0x00000000#32, some 0x3E99999A#32] := by decide

/-- V-R5's second command: no residual duty on Red. -/
theorem test_setrgb_no_residue :
    look (triple .internal) (exec (.setrgb .internal .green) (writeDuty 5 0x3E99999A#32 State.reset)) =
      some [some 0x00000000#32, some 0x3E99999A#32, some 0x00000000#32] := by decide

/-- T28 in P3's command 4: the thousands digit is lost. -/
theorem test_disptemp_wraps :
    look (half .internal) (exec (.disptemp .internal 0x449A5000#32 0#32 false) State.reset) =
      some [some 0x02#8, some 0x03#8, some 0x05#8, some 0x0C#8] := by decide

/-- P4's command 2: a NaN faults and writes no slot. -/
theorem test_disptemp_faults :
    look (fun t => (t.fault, half .internal t)) (exec (.disptemp .internal 0x7FC00000#32 0#32 false) State.reset) =
      some (some { kind := .renderDomain, ch := .internal, temp := 0x7FC00000#32 }, [none, none, none, none]) := by
  decide

/-- V-P2 and V-P3. -/
theorem test_dispdp : look State.dpmask (exec (.dispdp true false) State.reset) = some (some 0x24#8) ∧
    look State.dpmask (exec (.dispdp false true) State.reset) = some (some 0x42#8) := by decide

/-- V-K1. -/
theorem test_clrdisp :
    look (fun t => (half .external t ++ half .internal t, t.dpmask, t.led)) (exec .clrdisp State.reset) =
      some (List.replicate 8 (some 0xFF#8), some 0x00#8, none) := by decide

/-- P5's command 2: an illegal word sets the refusal mark and takes the command. -/
theorem test_step_refuses :
    look (fun t => (t.refused, t.pending, t.result)) (step (State.reset.withFetchWord 8 0x0F)) =
      some (true, [], none) := by decide

/-- The host's canonical iteration clears before it renders (R182, R187). -/
theorem test_iteration_clears_first :
    clearsBeforeRendering (Iteration.commands
      { inputs := { w := 0x9E28#16, tcE := 0x41AC0000#32, tcI := 0x42170000#32 }, le := 40#7, li := 30#7, fe := false,
        fi := true, tfE := 0x428D6666#32, tfI := 0x42C7E666#32, ce := .green, ci := .red, hE := false,
        hI := true }) = true := rfl

/-! ### Cases that meet the hypotheses of the statements -/

/-- A state whose host has one command to issue. -/
def waiting (word : Byte) (p : Ports) : State := putCommand { word := word, ports := p } State.reset

theorem witness_StepRunsTheDecodedInstruction :
    (waiting 0x07#8 ports).pending = [{ word := 0x07#8, ports := ports }] ∧
    decode { word := 0x07#8, ports := ports } = .ok .clrdisp ∧ State.reset.pending = [] := by decide

theorem witness_PlacedWordIsRunByTheNextStep :
    decodeTableWord 8 0x09 = some (.getlim .internal 0#16) ∧
    resultOf (step (State.reset.withFetchWord 8 0x09)) = some (.limit 0#7) := by decide

theorem witness_IllegalWordsAreRefused :
    (waiting 0x0F#8 ports).pending = [{ word := 0x0F#8, ports := ports }] ∧ 0x0F#8 ∉ legalWords ∧
    (waiting 0x10#8 ports).pending = [{ word := 0x10#8, ports := ports }] ∧ 0x10#8 ∉ legalWords := by decide

/-- Each clause at both ends of its range. -/
theorem witness_Cel2ferOverflowThresholds :
    (0x7DE38E39 ≤ (0x7DE38E39#32).toNat ∧ (0x7F800000#32).toNat ≤ 0x7F800000) ∧
    (0xFDE38E39 ≤ (0xFDE38E39#32).toNat ∧ (0xFF800000#32).toNat ≤ 0xFF800000) ∧
    (0x7DE38E38#32).toNat % 2 ^ 31 < 0x7DE38E39 ∧ (0xFDE38E38#32).toNat % 2 ^ 31 < 0x7DE38E39 ∧
    resultOf (exec (.cel2fer 0xFDE38E39#32) State.reset) = some (.tempF 0xFF800000#32) ∧
    resultOf (exec (.cel2fer 0x7DE38E38#32) State.reset) = some (.tempF 0x7E4CCCCC#32) := by decide

/-- The largest and the smallest subnormal, V-C15. -/
theorem witness_Cel2ferOfSubnormalIsThirtyTwo :
    (0x007FFFFF#32).toNat % 2 ^ 31 < 2 ^ 23 ∧ (0x807FFFFF#32).toNat % 2 ^ 31 < 2 ^ 23 ∧
    resultOf (exec (.cel2fer 0x807FFFFF#32) State.reset) = some (.tempF 0x42000000#32) := by decide

/-- Two words that differ outside one field, for each field. -/
theorem witness_SwitchFieldsAreIndependent :
    0x9E28#16 &&& 0x007F#16 = 0x00A8#16 &&& 0x007F#16 ∧ 0x9E28#16 &&& 0x7F00#16 = 0x1EFF#16 &&& 0x7F00#16 ∧
    0x9E28#16 &&& 0x0080#16 = 0x0001#16 &&& 0x0080#16 ∧ 0x9E28#16 &&& 0x8000#16 = 0x8001#16 &&& 0x8000#16 := by
  decide

/-- T31, T33 and T35 are outside the domain and T30, T2, T3 inside, for either unit: the hypothesis of
DisptempFaultsExactlyOutsideItsDomain, DisptempRendersTheSelectedTemperature, OverHundredFlagThreshold,
UnderHundredLayout, DecimalPointFollowsTheOnesDigit and ClearIsUnobservableAfterBothRenders. -/
theorem witness_DisptempDomain :
    OutsideRenderDomain (selectTemp false 0x4D4CCCCD#32 0#32) ∧ OutsideRenderDomain (selectTemp false 0x7F800000#32 0#32) ∧
    OutsideRenderDomain (selectTemp false 0xFFC00000#32 0#32) ∧
    ¬ OutsideRenderDomain (selectTemp true 0x7FC00000#32 0x4D4CCCCC#32) ∧
    ¬ OutsideRenderDomain (selectTemp true 0x7FC00000#32 0x80000000#32) ∧
    ¬ OutsideRenderDomain (selectTemp true 0x7FC00000#32 0xFF800000#32) := by decide

/-- T17 and T18: the integers on both sides of the last threshold. -/
theorem witness_TenthsRoundingThresholds :
    floorInt (fadd (fmul (unpack (clampTemp 0x42C7E665#32)) (fpNat 10)) fpHalf) = some 999 ∧
    floorInt (fadd (fmul (unpack (clampTemp 0x42C7E666#32)) (fpNat 10)) fpHalf) = some 1000 ∧
    ¬ AtLeastBits 0x42C7E666 0x42C7E665#32 ∧ AtLeastBits 0x42C7E666 0x42C7E666#32 := by decide

/-- T34 and T35: NaNs of both signs, and an operation after CLRDISP that is neither a DISPTEMP nor DISPDP, for
ClampReplacesNegativeTemperatures and ClrdispBlanksTheDisplay. -/
theorem witness_ClampAndClear :
    isNaN (unpack 0x7FC00000#32) = true ∧ isNaN (unpack 0xFFC00000#32) = true ∧
    (∀ ch tc tf useF, Instr.clrdisp ≠ .disptemp ch tc tf useF) ∧ (∀ intOH extOH, Instr.clrdisp ≠ .dispdp intOH extOH) ∧
    ∃ u, exec .clrdisp State.reset = .next u :=
  ⟨by decide, by decide, nofun, nofun, ⟨_, rfl⟩⟩

/-- T8 and T7's neighbour below: the first threshold. -/
theorem witness_TenthsRoundingFirstThreshold :
    floorInt (fadd (fmul (unpack (clampTemp 0x3D4CCCCB#32)) (fpNat 10)) fpHalf) = some 0 ∧
    floorInt (fadd (fmul (unpack (clampTemp 0x3D4CCCCC#32)) (fpNat 10)) fpHalf) = some 1 := by decide

/-- S14 and T30: a rendering on each of the two branches, for RenderedIntegersAreNonNegative and
DualRoundingKeepsTwoBranches. -/
theorem witness_RenderedIntegers :
    renderTemp (unpack (clampTemp 0x411C28F6#32)) = some { tenthsScaled := 98, whole := 9 } ∧
    renderTemp (unpack (clampTemp 0x4D4CCCCC#32)) = some { tenthsScaled := 2147483520, whole := 214748352 } := by decide

/-- T22 and T23: both sides of the branch at 100.0, and T17 below the flag's threshold. -/
theorem witness_OverHundredFlagThreshold :
    renderTemp (unpack (clampTemp (selectTemp false 0x42C7FFFF#32 0#32))) = some { tenthsScaled := 1000, whole := 100 } ∧
    fge (unpack (clampTemp (selectTemp false 0x42C7FFFF#32 0#32))) (fpNat 100) = false ∧
    fge (unpack (clampTemp (selectTemp false 0x42C80000#32 0#32))) (fpNat 100) = true ∧
    renderTemp (unpack (clampTemp (selectTemp false 0x42C7E665#32 0#32))) = some { tenthsScaled := 999, whole := 99 } := by
  decide

/-- T11 and T13: both sides of the BLANK threshold. -/
theorem witness_UnderHundredLayout :
    renderTemp (unpack (clampTemp (selectTemp false 0x411F3332#32 0#32))) = some { tenthsScaled := 99, whole := 9 } ∧
    renderTemp (unpack (clampTemp (selectTemp false 0x411F3333#32 0#32))) = some { tenthsScaled := 100, whole := 10 } := by
  decide

/-- An illegal word and a DISPTEMP outside its domain, each with a step that answers a next state. -/
theorem witness_MarksAreSetExactlyAndNeverCleared :
    Command.wellFormed { word := 0x0F#8, ports := ports } = false ∧ (∃ t, step (waiting 0x0F#8 ports) = .next t) ∧
    Issues (waiting 0x05#8 { ports with tf := 0x7FC00000#32 })
      (.disptemp .external 0x42170000#32 0x7FC00000#32 true) ∧
    OutsideRenderDomain (selectTemp true 0x42170000#32 0x7FC00000#32) ∧
    ∃ t, step (waiting 0x05#8 { ports with tf := 0x7FC00000#32 }) = .next t :=
  ⟨by decide, ⟨_, step_illegal (e := .channelBit 7#3) rfl (by decide)⟩, ⟨_, _, rfl, by decide⟩, by decide,
    exec_next (.disptemp .external 0x42170000#32 0x7FC00000#32 true) State.reset⟩

/-- A legal state that is not the reset state, and a step from it, for StepKeepsOutputsLegal and
OnlyTheNamedWritersChangeRegisters. -/
theorem witness_StepFromALegalState :
    OutputsLegal (writeDigit 7 blankPattern (waiting 0x05#8 ports)) ∧
    ∃ t, step (writeDigit 7 blankPattern (waiting 0x05#8 ports)) = .next t :=
  ⟨by decide, exec_next (.disptemp .external 0x42170000#32 0x42C7E666#32 true) (writeDigit 7 blankPattern State.reset)⟩

/-- A tie: 2^24 + 1 lies midway between 2^24 and (2^23 + 1) * 2. -/
theorem witness_RoundingIsNearestTiesToEven :
    0 < 1 ∧ 2 ^ 23 + 1 < 2 ^ 24 ∧ roundUnits (2 ^ 24 + 1) 1 = 2 ^ 24 ∧
    |((2 ^ 24 + 1 : Nat) : Int) - 1 * (2 ^ 24 : Nat)| = |((2 ^ 24 + 1 : Nat) : Int) - 1 * ((2 ^ 23 + 1) * 2 ^ 1 : Nat)| := by
  decide

/-- A product, a quotient and a sum that is not zero, and one that is. -/
theorem witness_FloatPrimitivesRoundOnce :
    fdiv (fpNat 9) (fpNat 5) = .fin false (0xE66666 * 2 ^ 126) ∧ (5 * unitsPerOne ≠ 0) ∧
    fadd (fpNat 1) (.fin true (3 * unitsPerOne)) = .fin true (2 * unitsPerOne) ∧
    fadd (fpNat 1) (.fin true unitsPerOne) = .fin false 0 := by decide

/-- P1's inputs: both selected temperatures are inside the domain. -/
theorem witness_CanonicalIterationCarriesItsResults :
    ¬ OutsideRenderDomain (selectTemp ((0x9E28#16).getLsbD 7) 0x41AC0000#32
        (pack 0x7FC00000#32 (celsiusToFahrenheit (unpack 0x41AC0000#32)))) ∧
    ¬ OutsideRenderDomain (selectTemp ((0x9E28#16).getLsbD 15) 0x42170000#32
        (pack 0x7FC00000#32 (celsiusToFahrenheit (unpack 0x42170000#32)))) := by decide

theorem witness_PackRestoresEveryNonNaN : isNaN (unpack 0x00000001#32) = false ∧ isNaN (unpack 0xFF800000#32) = false := by
  decide

theorem witness_HostAlertColorIsStrict :
    isNaN (unpack 0x41F00000#32) = false ∧ flt (fpNat (30#7).toNat) (unpack 0x41F00000#32) = false ∧
    flt (fpNat (30#7).toNat) (unpack 0x41F00001#32) = true := by decide

end Sys2Proof.Tests
end

section
/-! The rounding of the float primitives is to nearest, ties to even (O40, O44). The quotient `num / den` is compared with
multiples of 2^k, k the number of dropped bits: among these `nearestEven` takes the nearest, and a magnitude of 24
significant bits that is no such multiple lies below the quotient's leading power of two, which is one. -/

namespace Sys2Proof.Machine

/-! ### Rounding to a whole number -/

/-- A tie is rounded to the even whole number (R6). -/
theorem nearestEven_even_of_tie {num den : Nat} (h : 2 * (num % den) = den) : nearestEven num den % 2 = 0 := by
  unfold nearestEven
  simp only
  split <;> omega

/-- A whole number lies below `q`, on it, on the next one, or above that one, and its multiple of `den` with it. -/
theorem mul_place (den q c : Nat) :
    (c < q ∧ den * c + den ≤ den * q) ∨ c = q ∨ c = q + 1 ∨ (q + 1 < c ∧ den * q + 2 * den ≤ den * c) := by
  rcases Nat.lt_trichotomy c q with hlt | heq | hgt
  · exact .inl ⟨hlt, Nat.mul_le_mul_left den hlt⟩
  · exact .inr (.inl heq)
  · rcases Nat.eq_or_lt_of_le hgt with heq | hlt
    · exact .inr (.inr (.inl heq.symm))
    · refine .inr (.inr (.inr ⟨hlt, ?_⟩))
      calc den * q + 2 * den = den * (q + 2) := by ring
        _ ≤ den * c := Nat.mul_le_mul_left den hlt

/-- No whole number is nearer to the quotient than `nearestEven`, and where another is as near it is even: only the floor
and the next whole number can be as near, and both are only in a tie. -/
theorem nearestEven_nearest {num den : Nat} (hd : 0 < den) (c : Nat) :
    |(num : Int) - (den * nearestEven num den : Nat)| ≤ |(num : Int) - (den * c : Nat)| ∧
    (|(num : Int) - (den * nearestEven num den : Nat)| = |(num : Int) - (den * c : Nat)| →
      nearestEven num den ≠ c → nearestEven num den % 2 = 0) := by
  have hdiv := Nat.div_add_mod num den
  have hr := Nat.mod_lt num hd
  have htie := nearestEven_even_of_tie (num := num) (den := den)
  have hsucc : den * (num / den + 1) = den * (num / den) + den := Nat.mul_succ den _
  simp only [Int.abs_eq_natAbs]
  rcases nearestEven_cases num den with ⟨hfloor, hle⟩ | ⟨hnext, hle⟩
  · rw [hfloor] at htie ⊢
    rcases mul_place den (num / den) c with ⟨hlt, hmul⟩ | rfl | rfl | ⟨hlt, hmul⟩ <;> omega
  · rw [hnext] at htie ⊢
    rcases mul_place den (num / den) c with ⟨hlt, hmul⟩ | rfl | rfl | ⟨hlt, hmul⟩ <;> omega

/-! ### Rounding to 24 significant bits -/

/-- The significand of the rounding: the rounding is this whole number times 2^k, k the number of dropped bits. -/
def significand (num den : Nat) : Nat := nearestEven num (den * 2 ^ dropped num den)

theorem roundUnits_eq_significand (num den : Nat) :
    roundUnits num den = significand num den * 2 ^ dropped num den := rfl

/-- The significand has at most 24 bits, or is 2^24 where rounding up carried out of them. -/
theorem significand_le {num den : Nat} (hd : 0 < den) : significand num den ≤ 2 ^ 24 := by
  have h := roundUnits_le_two_pow (num := num) hd
  rw [roundUnits_eq_significand, Nat.pow_add] at h
  exact Nat.le_of_mul_le_mul_right h (Nat.two_pow_pos _)

/-- When bits are dropped, the significand has all its 24 bits. -/
theorem le_significand {num den : Nat} (hd : 0 < den) (h : 0 < dropped num den) : 2 ^ 23 ≤ significand num den := by
  have h := two_pow_le_roundUnits hd h
  rw [roundUnits_eq_significand, Nat.pow_add] at h
  exact Nat.le_of_mul_le_mul_right h (Nat.two_pow_pos _)

/-- The rounding has at most 24 significant bits; a significand rounded up to 2^24 is 2^23 one place higher. -/
theorem roundUnits_representable {num den : Nat} (hd : 0 < den) :
    ∃ c k : Nat, c < 2 ^ 24 ∧ roundUnits num den = c * 2 ^ k := by
  rcases Nat.eq_or_lt_of_le (significand_le (num := num) hd) with htop | hlt
  · refine ⟨2 ^ 23, dropped num den + 1, by decide, ?_⟩
    rw [roundUnits_eq_significand, htop, Nat.pow_succ]
    ring
  · exact ⟨significand num den, dropped num den, hlt, rfl⟩

/-- The leading bit of a shifted significand stands as far above bit 23 as the shift, when the significand fills its 24
bits or is not shifted. -/
theorem log2_shifted {m k : Nat} (hm : m < 2 ^ 24) (hk : k = 0 ∨ 2 ^ 23 ≤ m) : (m * 2 ^ k).log2 - 23 = k := by
  rcases hk with rfl | hm'
  · rcases Nat.eq_zero_or_pos m with rfl | hpos
    · rfl
    · have := (Nat.log2_lt hpos.ne').2 hm
      rw [Nat.pow_zero, Nat.mul_one]
      omega
  · have hpos : 0 < m * 2 ^ k := Nat.mul_pos (by omega) (Nat.two_pow_pos k)
    have hlog : (m * 2 ^ k).log2 = 23 + k := by
      rw [Nat.log2_eq_iff hpos.ne', Nat.pow_add, Nat.add_right_comm, Nat.pow_add]
      exact ⟨Nat.mul_le_mul_right _ hm', Nat.mul_lt_mul_of_pos_right hm (Nat.two_pow_pos k)⟩
    omega

/-- An even significand makes the last of the rounding's 24 significant bits 0. -/
theorem roundUnits_lastBit_even {num den : Nat} (hd : 0 < den) (heven : significand num den % 2 = 0) :
    roundUnits num den / 2 ^ ((roundUnits num den).log2 - 23) % 2 = 0 := by
  have hle := significand_le (num := num) hd
  have hge : dropped num den = 0 ∨ 2 ^ 23 ≤ significand num den :=
    (Nat.eq_zero_or_pos _).imp_right (le_significand hd)
  rw [roundUnits_eq_significand]
  generalize significand num den = m at *
  generalize dropped num den = k at *
  rcases Nat.eq_or_lt_of_le hle with rfl | hlt
  · rw [← Nat.pow_add, Nat.log2_two_pow, Nat.pow_div (by omega) (by decide), show 24 + k - (24 + k - 23) = 23 by omega]
  · rw [log2_shifted hlt hge, Nat.mul_div_cancel _ (Nat.two_pow_pos k)]
    exact heven

/-- `c * 2 ^ k` beside `num / den` is `c` beside the quotient of `num` by `den * 2 ^ k`. -/
theorem mul_shifted (den c k : Nat) : den * (c * 2 ^ k) = den * 2 ^ k * c := by ring

/-- The rounding is the nearest multiple of 2^k, k the number of dropped bits. -/
theorem roundUnits_nearest_multiple {num den : Nat} (hd : 0 < den) (c : Nat) :
    |(num : Int) - den * roundUnits num den| ≤ |(num : Int) - den * (c * 2 ^ dropped num den : Nat)| ∧
    (|(num : Int) - den * roundUnits num den| = |(num : Int) - den * (c * 2 ^ dropped num den : Nat)| →
      roundUnits num den ≠ c * 2 ^ dropped num den → significand num den % 2 = 0) := by
  obtain ⟨hle, htie⟩ := nearestEven_nearest (num := num) (Nat.mul_pos hd (Nat.two_pow_pos (dropped num den))) c
  rw [roundUnits_eq_significand, ← Nat.cast_mul, ← Nat.cast_mul, mul_shifted, mul_shifted]
  exact ⟨hle, fun heq hne => htie heq fun h => hne (congrArg (· * _) h)⟩

/-- When bits are dropped, a magnitude below the quotient's leading power of two is further from the quotient than the
rounding: that power of two is a multiple of 2^k and lies between. -/
theorem roundUnits_nearer_of_lt_leading {num den v : Nat} (hd : 0 < den) (hk : 0 < dropped num den)
    (hv : v < 2 ^ (23 + dropped num den)) :
    |(num : Int) - den * roundUnits num den| < |(num : Int) - den * v| := by
  obtain ⟨hle, -⟩ := roundUnits_nearest_multiple (num := num) hd (2 ^ 23)
  rw [← Nat.pow_add] at hle
  have hp : 2 ^ (23 + dropped num den) * den ≤ num := (Nat.le_div_iff_mul_le hd).1 (two_pow_le_div hk)
  have hvp : v * den < 2 ^ (23 + dropped num den) * den := Nat.mul_lt_mul_of_pos_right hv hd
  refine lt_of_le_of_lt hle ?_
  rw [← Nat.cast_mul, ← Nat.cast_mul, Nat.mul_comm den, Nat.mul_comm den]
  simp only [Int.abs_eq_natAbs]
  omega

/-- `roundUnits` rounds to nearest, ties to even (R6). -/
theorem roundUnits_nearest {num den : Nat} (hd : 0 < den) : NearestMagnitude num den (roundUnits num den) := by
  refine ⟨roundUnits_representable hd, fun c j hc => ?_⟩
  rcases Nat.lt_or_ge j (dropped num den) with hj | hj
  · have hv : c * 2 ^ j < 2 ^ (23 + dropped num den) :=
      calc c * 2 ^ j < 2 ^ 24 * 2 ^ j := Nat.mul_lt_mul_of_pos_right hc (Nat.two_pow_pos j)
        _ = 2 ^ (24 + j) := (Nat.pow_add ..).symm
        _ ≤ 2 ^ (23 + dropped num den) := Nat.pow_le_pow_right (by decide) (by omega)
    have hlt := roundUnits_nearer_of_lt_leading hd (by omega) hv
    exact ⟨hlt.le, fun heq => absurd heq hlt.ne⟩
  · obtain ⟨i, rfl⟩ := Nat.exists_eq_add_of_le' hj
    obtain ⟨hle, htie⟩ := roundUnits_nearest_multiple (num := num) hd (c * 2 ^ i)
    rw [Nat.pow_add, ← Nat.mul_assoc]
    exact ⟨hle, fun heq hne => roundUnits_lastBit_even hd (htie heq hne)⟩

/-- Settles O40: `roundUnits` meets `NearestMagnitude`, which says the statement's clauses. -/
theorem roundingIsNearestTiesToEven : Obligations.RoundingIsNearestTiesToEven := by
  intro num den hd
  exact roundUnits_nearest hd

/-! ### The primitives round once -/

/-- `ofRatio` is the nearest magnitude with its sign, or the infinity of that sign when the magnitude overflows (R9). -/
theorem ofRatio_nearest (neg : Bool) {num den : Nat} (hd : 0 < den) :
    ∃ r, NearestMagnitude num den r ∧
      ofRatio neg num den = if 2 ^ 128 * 2 ^ 149 ≤ r then .inf neg else .fin neg r :=
  ⟨roundUnits num den, roundUnits_nearest hd, rfl⟩

/-- The quotient of two finite values, the divisor not zero, is the rounded exact quotient. -/
theorem fdiv_fin (n m : Bool) (a : Nat) {b : Nat} (hb : b ≠ 0) :
    fdiv (.fin n a) (.fin m b) = ofRatio (n ^^ m) (a * unitsPerOne) b := if_neg hb

/-- A sum of two finite values that is exactly zero is +0 unless both are negative. -/
theorem fadd_fin_of_eq_zero {n m : Bool} {a b : Nat} (hz : signedUnits n a + signedUnits m b = 0) :
    fadd (.fin n a) (.fin m b) = .fin (n && m) 0 := if_pos hz

/-- A sum of two finite values that is not zero is the rounded exact sum. -/
theorem fadd_fin_of_ne_zero {n m : Bool} {a b : Nat} (hz : signedUnits n a + signedUnits m b ≠ 0) :
    fadd (.fin n a) (.fin m b) =
      ofRatio (decide (signedUnits n a + signedUnits m b < 0)) (signedUnits n a + signedUnits m b).natAbs 1 := if_neg hz

/-- A NaN operand of a primitive gives a NaN (R9). -/
theorem primitives_nan (x : Fp) :
    fmul .nan x = .nan ∧ fmul x .nan = .nan ∧ fdiv .nan x = .nan ∧ fdiv x .nan = .nan ∧
    fadd .nan x = .nan ∧ fadd x .nan = .nan := by
  cases x <;> exact ⟨rfl, rfl, rfl, rfl, rfl, rfl⟩

/-- Settles O44: on finite operands each primitive is one `ofRatio` of its exact result. -/
theorem floatPrimitivesRoundOnce : Obligations.FloatPrimitivesRoundOnce := by
  refine ⟨fun n m a b => ?_, fun n m a b hb => ?_, fun n m a b => ⟨fadd_fin_of_eq_zero, fun hz => ?_⟩, primitives_nan⟩
  · rw [fmul_fin]
    exact ofRatio_nearest _ unitsPerOne_pos
  · rw [fdiv_fin n m a hb]
    exact ofRatio_nearest _ (Nat.pos_of_ne_zero hb)
  · rw [fadd_fin_of_ne_zero hz]
    exact ofRatio_nearest _ Nat.one_pos

end Sys2Proof.Machine
end

section
/-! The layout of R10: an encoding is its sign, exponent and fraction, packing restores what unpacking read (O41), and the
NaN draws are the encodings with exponent all ones and a fraction that is not zero (O42). -/

namespace Sys2Proof.Machine

/-! ### The fields of an encoding -/

/-- The sign of an encoding, as a field of one bit. -/
theorem ofBool_sign (x : Binary32) : BitVec.ofBool (x.getLsbD 31) = x.extractLsb' 31 1 := by
  rw [BitVec.getLsbD_eq_extractLsb']
  generalize x.extractLsb' 31 1 = s
  revert s
  decide

/-- An encoding is its sign bit and the 31 bits below it. -/
theorem sign_append_rest (x : Binary32) : BitVec.ofBool (x.getLsbD 31) ++ BitVec.ofNat 31 (x.toNat % 2 ^ 31) = x := by
  have hrest : BitVec.ofNat 31 (x.toNat % 2 ^ 31) = x.extractLsb' 0 31 :=
    BitVec.eq_of_toNat_eq (by simp [BitVec.extractLsb'_toNat])
  rw [ofBool_sign, hrest]
  exact BitVec.extractLsb'_append_extractLsb'

/-- An encoding is its sign, exponent and fraction (R10). -/
theorem fields_append (x : Binary32) :
    BitVec.ofBool (x.getLsbD 31) ++ x.extractLsb' 23 8 ++ x.extractLsb' 0 23 = x := by
  have htop : x.extractLsb' 31 1 ++ x.extractLsb' 23 8 = x.extractLsb' 23 9 :=
    BitVec.extractLsb'_append_extractLsb'_eq_extractLsb' rfl
  rw [ofBool_sign, htop]
  exact BitVec.extractLsb'_append_extractLsb'

/-- Three fields that are those of an encoding make it up again. -/
theorem eq_of_fields {x : Binary32} {e : BitVec 8} {f : BitVec 23} (he : x.extractLsb' 23 8 = e)
    (hf : x.extractLsb' 0 23 = f) : BitVec.ofBool (x.getLsbD 31) ++ e ++ f = x := by
  rw [← he, ← hf, fields_append]

/-- The exponent field of an encoding put together from its fields. -/
theorem exponent_append (s : BitVec 1) (e : BitVec 8) (f : BitVec 23) : (s ++ e ++ f).extractLsb' 23 8 = e := by
  rw [BitVec.extractLsb'_append_eq_of_le (Nat.le_refl 23), Nat.sub_self, BitVec.extractLsb'_append_eq_right]

/-! ### The three readings of an encoding (R10) -/

theorem unpack_finite {x : Binary32} (he : x.extractLsb' 23 8 ≠ 0xFF#8) :
    unpack x = .fin (x.getLsbD 31) (magOfBits (x.toNat % 2 ^ 31)) := if_neg he

theorem unpack_infinity {x : Binary32} (he : x.extractLsb' 23 8 = 0xFF#8) (hf : x.extractLsb' 0 23 = 0#23) :
    unpack x = .inf (x.getLsbD 31) := by
  rw [unpack, if_pos he, if_pos hf]

theorem unpack_nan {x : Binary32} (he : x.extractLsb' 23 8 = 0xFF#8) (hf : x.extractLsb' 0 23 ≠ 0#23) :
    unpack x = .nan := by
  rw [unpack, if_pos he, if_neg hf]

/-! ### Packing restores the encoding -/

/-- An infinity's encoding is its sign, exponent all ones and a zero fraction (R10). -/
theorem pack_inf (nan : Binary32) (neg : Bool) : pack nan (.inf neg) = BitVec.ofBool neg ++ 0xFF#8 ++ 0#23 := by
  cases neg <;> rfl

/-- The magnitude of an exponent and fraction field gives the fields back (R10). -/
theorem bitsOfMag_magOfBits (bits : Nat) : bitsOfMag (magOfBits bits) = bits := by
  have hb := Nat.div_add_mod bits (2 ^ 23)
  have hf : bits % 2 ^ 23 < 2 ^ 23 := Nat.mod_lt _ (by decide)
  unfold magOfBits bitsOfMag
  simp only
  generalize bits / 2 ^ 23 = e at *
  generalize bits % 2 ^ 23 = f at *
  split
  case isTrue he =>
    have hk := log2_shifted (k := 0) (show f < 2 ^ 24 by omega) (.inl rfl)
    rw [Nat.pow_zero, Nat.mul_one] at hk
    rw [hk, Nat.pow_zero, Nat.div_one, Nat.zero_mul, ← hb, he, Nat.mul_zero]
  case isFalse he =>
    rw [log2_shifted (by omega) (.inr (Nat.le_add_right _ _)), Nat.mul_div_cancel _ (Nat.two_pow_pos _)]
    omega

/-- Settles O41, by the three readings of an encoding (R10). -/
theorem packRestoresEveryNonNaN : Obligations.PackRestoresEveryNonNaN := by
  intro x nan hnan
  by_cases he : x.extractLsb' 23 8 = 0xFF#8
  · by_cases hf : x.extractLsb' 0 23 = 0#23
    · rw [unpack_infinity he hf, pack_inf]
      exact eq_of_fields he hf
    · rw [unpack_nan he hf] at hnan
      exact absurd hnan (by decide)
  · rw [unpack_finite he, pack, bitsOfMag_magOfBits]
    exact sign_append_rest x

/-! ### The NaN draws -/

/-- The fraction of a draw is never zero. -/
theorem ofNat_succ_ne_zero (frac : Fin 8388607) : BitVec.ofNat 23 (frac.val + 1) ≠ 0#23 := by
  have := frac.isLt
  bv_omega

/-- Every fraction that is not zero is that of a draw. -/
theorem exists_ofNat_succ {f : BitVec 23} (hf : f ≠ 0#23) : ∃ frac : Fin 8388607, BitVec.ofNat 23 (frac.val + 1) = f := by
  have hpos : 0 < f.toNat := by bv_omega
  have hlt := f.isLt
  refine ⟨⟨f.toNat - 1, by omega⟩, ?_⟩
  rw [Nat.sub_add_cancel hpos, BitVec.ofNat_toNat, BitVec.setWidth_eq]

/-- Settles O42: the draw of an encoding with exponent all ones is its sign and its fraction less one. -/
theorem nanDrawsAreExactlyTheNaNs : Obligations.NaNDrawsAreExactlyTheNaNs := by
  intro x
  constructor
  · rintro ⟨⟨neg, frac⟩, rfl⟩
    refine ⟨exponent_append _ _ _, ?_⟩
    rw [nanOfDraw, BitVec.extractLsb'_append_eq_right]
    exact ofNat_succ_ne_zero frac
  · rintro ⟨he, hf⟩
    obtain ⟨frac, hfrac⟩ := exists_ofNat_succ hf
    exact ⟨(x.getLsbD 31, frac), eq_of_fields he hfrac.symm⟩

end Sys2Proof.Machine
end

section
/-! What each operation writes into the output registers, said once: nothing, or a value that depends on the operation
alone (R35). The rules of the whole machine about these registers (O33, O36, O37) are read off the values written; those
about the state at reset (O38, O39) stand here too. -/

namespace Sys2Proof.Machine

/-! ### The values written -/

/-- What a render writes into a slot; none where it leaves the slot alone (R118 to R121). -/
def halfWrite (ch : Channel) (useF : Bool) (r : Rendering) (j : Fin 8) : Option Byte :=
  if slotOf ch 0 = j then some (unitGlyph useF)
  else if slotOf ch 1 = j then some (lowSlot r)
  else if slotOf ch 2 = j then some (midSlot r)
  else if slotOf ch 3 = j then some (highSlot r)
  else none

/-- What an operation writes into a slot; none where it leaves the slot alone (R24). -/
def digitWrite (i : Instr) (j : Fin 8) : Option Byte :=
  match i with
  | .disptemp ch tc tf useF =>
    (renderTemp (unpack (clampTemp (selectTemp useF tc tf)))).bind fun r => halfWrite ch useF r j
  | .clrdisp => some blankPattern
  | _ => none

/-- What an operation writes into DPMASK, if anything (R26). -/
def dpmaskWrite : Instr → Option Byte
  | .dispdp intOH extOH => some (decimalPointMask intOH extOH)
  | .clrdisp => some 0x00#8
  | _ => none

/-- What an operation writes into a duty channel; none where it leaves the channel alone (R27). -/
def dutyWrite (i : Instr) (j : Fin 8) : Option Binary32 :=
  match i with
  | .setrgb ch color =>
    if dutyOf ch 2 = j then some (redDuty color)
    else if dutyOf ch 1 = j then some (greenDuty color)
    else if dutyOf ch 0 = j then some dutyOff
    else none
  | _ => none

/-- What an operation writes into LED, if anything (R29). -/
def ledWrite : Instr → Option Half
  | .displim a b => some (mirrorWord a b)
  | _ => none

/-- The output registers of `t` are those of `s` with the writes of `i` on top. -/
structure OutputsWritten (i : Instr) (s t : State) : Prop where
  digit : ∀ j, readDigit t j = (digitWrite i j).or (readDigit s j)
  dpmask : t.dpmask = (dpmaskWrite i).or s.dpmask
  duty : ∀ j, readDuty t j = (dutyWrite i j).or (readDuty s j)
  led : t.led = (ledWrite i).or s.led

theorem readDigit_writeHalf_eq_or (ch : Channel) (useF : Bool) (r : Rendering) (s : State) (j : Fin 8) :
    readDigit (writeHalf ch useF r s) j = (halfWrite ch useF r j).or (readDigit s j) := by
  rw [readDigit_writeHalf, halfWrite]
  split_ifs <;> rfl

/-- The output registers after an operation hold what it writes, and what they held where it writes nothing. -/
theorem exec_outputsWritten {i : Instr} {s t : State} (h : exec i s = .next t) : OutputsWritten i s t := by
  cases i with
  | cel2fer tc =>
    obtain rfl := Host.Outcome.next.inj h
    obtain ⟨n, hframe⟩ := presentFloat_frame (celsiusToFahrenheit (unpack tc)) s
    rw [hframe]
    exact ⟨fun _ => rfl, rfl, fun _ => rfl, rfl⟩
  | getlim ch w =>
    obtain rfl := Host.Outcome.next.inj h
    exact ⟨fun _ => rfl, rfl, fun _ => rfl, rfl⟩
  | getfmt ch w =>
    obtain rfl := Host.Outcome.next.inj h
    exact ⟨fun _ => rfl, rfl, fun _ => rfl, rfl⟩
  | displim a b =>
    obtain rfl := Host.Outcome.next.inj h
    exact ⟨fun _ => rfl, rfl, fun _ => rfl, rfl⟩
  | setrgb ch color =>
    obtain rfl := Host.Outcome.next.inj h
    refine ⟨fun _ => rfl, rfl, fun j => (readDuty_setrgb ch _ _ _ s j).trans ?_, rfl⟩
    rw [dutyWrite]
    split_ifs <;> rfl
  | disptemp ch tc tf useF =>
    rcases execDisptemp_cases h with ⟨hr, rfl⟩ | ⟨r, hr, rfl⟩
    · refine ⟨fun j => ?_, rfl, fun _ => rfl, rfl⟩
      rw [digitWrite, hr]
      rfl
    · refine ⟨fun j => ?_, rfl, fun _ => rfl, rfl⟩
      rw [digitWrite, hr]
      exact readDigit_writeHalf_eq_or ch useF r s j
  | dispdp intOH extOH =>
    obtain rfl := Host.Outcome.next.inj h
    exact ⟨fun _ => rfl, rfl, fun _ => rfl, rfl⟩
  | clrdisp =>
    obtain rfl := Host.Outcome.next.inj h
    exact ⟨readDigit_blankDigits s, rfl, fun _ => rfl, rfl⟩

/-- A step leaves the output registers alone, or the host's next command is an operation and its writes are made. -/
theorem step_outputs_cases {s t : State} (h : step s = .next t) :
    SameOutputs s t ∨ ∃ i, Issues s i ∧ OutputsWritten i s t := by
  rcases step_cases h with ⟨-, rfl⟩ | ⟨c, rest, e, -, -, rfl⟩ | ⟨c, rest, i, hp, hd, hx⟩
  · exact .inl ⟨rfl, rfl, rfl, rfl⟩
  · exact .inl ⟨rfl, rfl, rfl, rfl⟩
  · obtain ⟨hdigit, hdpmask, hduty, hled⟩ := exec_outputsWritten hx
    exact .inr ⟨i, ⟨c, rest, hp, hd⟩, hdigit, hdpmask, hduty, hled⟩

/-! ### Which operations write a register -/

theorem slotOf_val (ch : Channel) (k : Fin 4) : (slotOf ch k).val = slotBase ch + k.val := by
  cases ch <;> simp [slotBase]

theorem dutyOf_val (ch : Channel) (k : Fin 3) : (dutyOf ch k).val = dutyBase ch + k.val := by
  cases ch <;> simp [dutyBase]

/-- A render writes into its channel's half only (R25). -/
theorem halfWrite_inside {ch : Channel} {useF : Bool} {r : Rendering} {j : Fin 8} (h : halfWrite ch useF r j ≠ none) :
    slotBase ch ≤ j.val ∧ j.val < slotBase ch + 4 := by
  have hslot : ∃ k, slotOf ch k = j := by
    unfold halfWrite at h
    split_ifs at h with h0 h1 h2 h3
    · exact ⟨0, h0⟩
    · exact ⟨1, h1⟩
    · exact ⟨2, h2⟩
    · exact ⟨3, h3⟩
    · exact absurd rfl h
  obtain ⟨k, rfl⟩ := hslot
  have := slotOf_val ch k
  omega

/-- A slot is written by CLRDISP and by its own channel's DISPTEMP (R24). -/
theorem digitWrite_writer {i : Instr} {j : Fin 8} (h : digitWrite i j ≠ none) :
    i = .clrdisp ∨ ∃ ch tc tf useF, i = .disptemp ch tc tf useF ∧ slotBase ch ≤ j.val ∧ j.val < slotBase ch + 4 := by
  cases i with
  | clrdisp => exact .inl rfl
  | disptemp ch tc tf useF =>
    refine .inr ⟨ch, tc, tf, useF, rfl, ?_⟩
    rw [digitWrite] at h
    cases hr : renderTemp (unpack (clampTemp (selectTemp useF tc tf))) with
    | none => exact absurd (by rw [hr]; rfl) h
    | some r =>
      rw [hr] at h
      exact halfWrite_inside h
  | cel2fer | getlim | getfmt | displim | setrgb | dispdp => exact absurd rfl h

/-- DPMASK is written by CLRDISP and by DISPDP (R26). -/
theorem dpmaskWrite_writer {i : Instr} (h : dpmaskWrite i ≠ none) :
    i = .clrdisp ∨ ∃ intOH extOH, i = .dispdp intOH extOH := by
  cases i with
  | clrdisp => exact .inl rfl
  | dispdp intOH extOH => exact .inr ⟨intOH, extOH, rfl⟩
  | cel2fer | getlim | getfmt | displim | setrgb | disptemp => exact absurd rfl h

/-- A duty channel is written by the SETRGB of its triple (R27). -/
theorem dutyWrite_writer {i : Instr} {j : Fin 8} (h : dutyWrite i j ≠ none) :
    ∃ ch color, i = .setrgb ch color ∧ dutyBase ch ≤ j.val ∧ j.val < dutyBase ch + 3 := by
  cases i with
  | setrgb ch color =>
    have hchannel : ∃ k, dutyOf ch k = j := by
      unfold dutyWrite at h
      dsimp only at h
      split_ifs at h with h2 h1 h0
      · exact ⟨2, h2⟩
      · exact ⟨1, h1⟩
      · exact ⟨0, h0⟩
      · exact absurd rfl h
    obtain ⟨k, rfl⟩ := hchannel
    have := dutyOf_val ch k
    exact ⟨ch, color, rfl, by omega⟩
  | cel2fer | getlim | getfmt | displim | disptemp | dispdp | clrdisp => exact absurd rfl h

/-- No operation writes DUTY[6] or DUTY[7]: no triple reaches above channel 5 (R41). -/
theorem dutyWrite_eq_none (i : Instr) {j : Fin 8} (hj : 6 ≤ j.val) : dutyWrite i j = none := by
  by_contra h
  obtain ⟨ch, -, -, -, hlt⟩ := dutyWrite_writer h
  cases ch <;> simp only [dutyBase] at hlt <;> omega

/-- LED is written by DISPLIM (R29). -/
theorem ledWrite_writer {i : Instr} (h : ledWrite i ≠ none) : ∃ a b, i = .displim a b := by
  cases i with
  | displim a b => exact ⟨a, b, rfl⟩
  | cel2fer | getlim | getfmt | setrgb | disptemp | dispdp | clrdisp => exact absurd rfl h

/-- A register that changed was written. -/
theorem write_ne_none_of_changed {α : Type} {w old new : Option α} (hnew : new = w.or old) (h : new ≠ old) :
    w ≠ none := by
  rintro rfl
  exact h hnew

/-- Settles O36: a register that a step changes was written by the operation issued. -/
theorem onlyTheNamedWritersChangeRegisters : Obligations.OnlyTheNamedWritersChangeRegisters := by
  intro s t h
  rcases step_outputs_cases h with ⟨hdigit, hdpmask, hduty, hled⟩ | ⟨i, hissued, hdigit, hdpmask, hduty, hled⟩
  · exact ⟨fun j hj => absurd (readDigit_congr hdigit j) hj, fun hj => absurd hdpmask hj,
      fun j hj => absurd (readDuty_congr hduty j) hj, fun hj => absurd hled hj,
      readDuty_congr hduty 6, readDuty_congr hduty 7⟩
  · refine ⟨fun j hj => ?_, fun hj => ?_, fun j hj => ?_, fun hj => ?_, ?_, ?_⟩
    · rcases digitWrite_writer (write_ne_none_of_changed (hdigit j) hj) with rfl | ⟨ch, tc, tf, useF, rfl, hin⟩
      · exact .inl hissued
      · exact .inr ⟨ch, tc, tf, useF, hissued, hin⟩
    · rcases dpmaskWrite_writer (write_ne_none_of_changed hdpmask hj) with rfl | ⟨intOH, extOH, rfl⟩
      · exact .inl hissued
      · exact .inr ⟨intOH, extOH, hissued⟩
    · obtain ⟨ch, color, rfl, hin⟩ := dutyWrite_writer (write_ne_none_of_changed (hduty j) hj)
      exact ⟨ch, color, hissued, hin⟩
    · obtain ⟨a, b, rfl⟩ := ledWrite_writer (write_ne_none_of_changed hled hj)
      exact ⟨a, b, hissued⟩
    · rw [hduty, dutyWrite_eq_none i (by decide), Option.none_or]
    · rw [hduty, dutyWrite_eq_none i (by decide), Option.none_or]

/-! ### What is written is legal -/

/-- What a slot may hold: the glyph slots are 0 and 4 (R24, R25). -/
def legalSlot (j : Fin 8) (v : Option Byte) : Bool :=
  if j.val % 4 = 0 then legalGlyphSlot v else legalDigitSlot v

@[simp] theorem legalSlot_none (j : Fin 8) : legalSlot j none = true := by
  unfold legalSlot
  split <;> rfl

theorem legalSlot_blank (j : Fin 8) : legalSlot j (some blankPattern) = true := by
  unfold legalSlot
  split <;> rfl

theorem legalSlot_unitGlyph (ch : Channel) (useF : Bool) : legalSlot (slotOf ch 0) (some (unitGlyph useF)) = true := by
  cases ch <;> cases useF <;> rfl

/-- The other three slots of a half show digits. -/
theorem legalSlot_of_digit (ch : Channel) {k : Fin 4} (hk : k ≠ 0) {v : Byte} (hv : legalDigitSlot (some v) = true) :
    legalSlot (slotOf ch k) (some v) = true := by
  have hslot : ¬ (slotOf ch k).val % 4 = 0 := by
    cases ch <;> simp only [slotOf_external_val, slotOf_internal_val] <;> omega
  rw [legalSlot, if_neg hslot]
  exact hv

/-- A remainder by 10 is shown as a decimal digit (R114). -/
theorem legalDigitSlot_digitPattern (n : Int) : legalDigitSlot (some (digitPattern (n % 10))) = true := by
  have hle : (digitPattern (n % 10)).toNat ≤ 9 := by
    rw [digitPattern, BitVec.toNat_ofInt]
    omega
  simp [legalDigitSlot, hle]

theorem legalDigitSlot_highSlot (r : Rendering) : legalDigitSlot (some (highSlot r)) = true := by
  unfold highSlot
  split_ifs
  · exact legalDigitSlot_digitPattern _
  · exact legalDigitSlot_digitPattern _
  · rfl

theorem legalDigitSlot_midSlot (r : Rendering) : legalDigitSlot (some (midSlot r)) = true := by
  unfold midSlot
  split_ifs
  · exact legalDigitSlot_digitPattern _
  · exact legalDigitSlot_digitPattern _

theorem legalDigitSlot_lowSlot (r : Rendering) : legalDigitSlot (some (lowSlot r)) = true := by
  unfold lowSlot
  split_ifs
  · exact legalDigitSlot_digitPattern _
  · exact legalDigitSlot_digitPattern _

theorem legalSlot_halfWrite (ch : Channel) (useF : Bool) (r : Rendering) (j : Fin 8) :
    legalSlot j (halfWrite ch useF r j) = true := by
  unfold halfWrite
  split_ifs with h0 h1 h2 h3
  · exact h0 ▸ legalSlot_unitGlyph ch useF
  · exact h1 ▸ legalSlot_of_digit ch (by decide) (legalDigitSlot_lowSlot r)
  · exact h2 ▸ legalSlot_of_digit ch (by decide) (legalDigitSlot_midSlot r)
  · exact h3 ▸ legalSlot_of_digit ch (by decide) (legalDigitSlot_highSlot r)
  · exact legalSlot_none j

theorem legalSlot_digitWrite (i : Instr) (j : Fin 8) : legalSlot j (digitWrite i j) = true := by
  cases i with
  | clrdisp => exact legalSlot_blank j
  | disptemp ch tc tf useF =>
    rw [digitWrite]
    cases renderTemp (unpack (clampTemp (selectTemp useF tc tf))) with
    | none => exact legalSlot_none j
    | some r => exact legalSlot_halfWrite ch useF r j
  | cel2fer | getlim | getfmt | displim | setrgb | dispdp => exact legalSlot_none j

theorem legalMask_dpmaskWrite (i : Instr) : legalMask (dpmaskWrite i) = true := by
  cases i with
  | dispdp intOH extOH => cases intOH <;> cases extOH <;> rfl
  | clrdisp | cel2fer | getlim | getfmt | displim | setrgb | disptemp => rfl

theorem legalDuty_dutyWrite (i : Instr) (j : Fin 8) : legalDuty (dutyWrite i j) = true := by
  cases i with
  | setrgb ch color =>
    unfold dutyWrite
    dsimp only
    split_ifs
    · cases color <;> rfl
    · cases color <;> rfl
    · rfl
    · rfl
  | cel2fer | getlim | getfmt | displim | disptemp | dispdp | clrdisp => rfl

/-- The 7-bit masks leave bits 7 and 15 of the mirror word clear (R29, R85). -/
theorem legalLed_mirrorWord (a b : IntWord) : legalLed (some (mirrorWord a b)) = true := by
  simp [legalLed, mirrorWord, maskLimit]

theorem legalLed_ledWrite (i : Instr) : legalLed (ledWrite i) = true := by
  cases i with
  | displim a b => exact legalLed_mirrorWord a b
  | cel2fer | getlim | getfmt | setrgb | disptemp | dispdp | clrdisp => rfl

/-- A write on top of an old value is legal when both are. -/
theorem legal_or {α : Type} {legal : Option α → Bool} {w old : Option α} (hw : legal w = true)
    (hold : legal old = true) : legal (w.or old) = true := by
  cases w with
  | none => exact hold
  | some v => exact hw

/-- The writes of an operation keep the output registers legal. -/
theorem OutputsWritten.outputsLegal {i : Instr} {s t : State} (h : OutputsWritten i s t) (hs : OutputsLegal s) :
    OutputsLegal t := by
  obtain ⟨hdigit, hmask, hduty, hduty6, hduty7, hled⟩ := hs
  refine ⟨fun j => ?_, ?_, fun j => ?_, ?_, ?_, ?_⟩
  · rw [h.digit j]
    exact legal_or (legal := legalSlot j) (legalSlot_digitWrite i j) (hdigit j)
  · rw [h.dpmask]
    exact legal_or (legalMask_dpmaskWrite i) hmask
  · rw [h.duty j]
    exact legal_or (legalDuty_dutyWrite i j) (hduty j)
  · rw [h.duty, dutyWrite_eq_none i (by decide), Option.none_or, hduty6]
  · rw [h.duty, dutyWrite_eq_none i (by decide), Option.none_or, hduty7]
  · rw [h.led]
    exact legal_or (legalLed_ledWrite i) hled

/-- The invariant speaks of the output registers alone. -/
theorem outputsLegal_of_sameOutputs {s t : State} (h : SameOutputs s t) (hs : OutputsLegal s) : OutputsLegal t := by
  obtain ⟨hdigit, hdpmask, hduty, hled⟩ := h
  simpa only [OutputsLegal, readDigit_congr hdigit, readDuty_congr hduty, hdpmask, hled] using hs

/-- Settles O37: a step writes only legal values. -/
theorem stepKeepsOutputsLegal : Obligations.StepKeepsOutputsLegal := by
  intro s t hs h
  rcases step_outputs_cases h with hsame | ⟨i, -, hwritten⟩
  · exact outputsLegal_of_sameOutputs hsame hs
  · exact hwritten.outputsLegal hs

/-! ### The state at reset -/

/-- Settles O38: a register that holds nothing is legal. -/
theorem resetOutputsAreLegal : Obligations.ResetOutputsAreLegal := by
  refine ⟨fun j => ?_, rfl, fun j => ?_, readDuty_reset 6, readDuty_reset 7, rfl⟩
  · rw [readDigit_reset]
    exact legalSlot_none j
  · rw [readDuty_reset]
    rfl

/-- Settles O39: slot 0 already fails the boot requirement. -/
theorem resetDefinesNoRegister : Obligations.ResetDefinesNoRegister := by
  refine ⟨fun j => ⟨readDigit_reset j, readDuty_reset j⟩, rfl, rfl, rfl, rfl, ?_⟩
  rintro ⟨hdigit, -⟩
  exact hdigit 0 (readDigit_reset 0)

/-! ### Results and writes do not depend on the state -/

/-- Every NaN draw is a NaN (R72, log 7). -/
theorem isNaN_nextNaN (s : State) : isNaN (unpack (nextNaN s)) = true := by
  obtain ⟨hexp, hfrac⟩ := (nanDrawsAreExactlyTheNaNs (nextNaN s)).1 ⟨_, rfl⟩
  rw [unpack_nan hexp hfrac, isNaN_nan]

theorem pack_nan (nan : Binary32) : pack nan .nan = nan := rfl

/-- The encoding of a value that is no NaN does not depend on the draw. -/
theorem pack_congr {v : Fp} (h : isNaN v = false) (nan nan' : Binary32) : pack nan v = pack nan' v := by
  cases v with
  | nan => exact absurd h (by decide)
  | inf neg => rw [pack, pack]
  | fin neg mag => rw [pack, pack]

/-- Presenting a float puts its encoding on the result port, a drawn one for a NaN (R70). -/
theorem presentFloat_result (v : Fp) (s : State) :
    (presentFloat v s).result = some (.tempF (pack (nextNaN s) v)) := by
  obtain ⟨n, hframe⟩ := presentFloat_frame v s
  rw [hframe]

/-- Two results are the same, or both are NaNs (R72). -/
def SameResultButNaN (r r' : Option Result) : Prop :=
  r = r' ∨ ∃ v v' : Binary32, r = some (.tempF v) ∧ r' = some (.tempF v') ∧
    isNaN (unpack v) = true ∧ isNaN (unpack v') = true

theorem presentFloat_result_agree (v : Fp) (s s' : State) :
    SameResultButNaN (presentFloat v s).result (presentFloat v s').result := by
  rw [presentFloat_result, presentFloat_result]
  cases v with
  | nan =>
    rw [pack_nan, pack_nan]
    exact .inr ⟨_, _, rfl, rfl, isNaN_nextNaN s, isNaN_nextNaN s'⟩
  | inf neg =>
    rw [pack_congr (isNaN_inf neg) (nextNaN s) (nextNaN s')]
    exact .inl rfl
  | fin neg mag =>
    rw [pack_congr (isNaN_fin neg mag) (nextNaN s) (nextNaN s')]
    exact .inl rfl

/-- The result of an operation does not depend on the state it runs in, but for the draw of a NaN (R35, R72). -/
theorem exec_result_agree {i : Instr} {s s' t t' : State} (h : exec i s = .next t) (h' : exec i s' = .next t') :
    SameResultButNaN t.result t'.result := by
  cases i with
  | disptemp ch tc tf useF =>
    cases hr : renderTemp (unpack (clampTemp (selectTemp useF tc tf))) with
    | none =>
      obtain rfl := Host.Outcome.next.inj ((execDisptemp_of_none s hr).symm.trans h)
      obtain rfl := Host.Outcome.next.inj ((execDisptemp_of_none s' hr).symm.trans h')
      exact .inl rfl
    | some r =>
      obtain rfl := Host.Outcome.next.inj ((execDisptemp_of_some s hr).symm.trans h)
      obtain rfl := Host.Outcome.next.inj ((execDisptemp_of_some s' hr).symm.trans h')
      exact .inl rfl
  | cel2fer tc =>
    obtain rfl := Host.Outcome.next.inj h
    obtain rfl := Host.Outcome.next.inj h'
    exact presentFloat_result_agree _ s s'
  | getlim | getfmt | displim | setrgb | dispdp | clrdisp =>
    obtain rfl := Host.Outcome.next.inj h
    obtain rfl := Host.Outcome.next.inj h'
    exact .inl rfl

/-- A register with one write on top of two old values holds the same value twice, or what it held. -/
theorem written_or_kept {α : Type} {w old old' new new' : Option α} (hnew : new = w.or old) (hnew' : new' = w.or old') :
    new = new' ∨ (new = old ∧ new' = old') := by
  cases w with
  | none => exact .inr ⟨hnew, hnew'⟩
  | some v => exact .inl (hnew.trans hnew'.symm)

/-- Settles O33: the results agree, and the writes are a function of the operation. -/
theorem operationsReadNoOutputRegister : Obligations.OperationsReadNoOutputRegister := by
  intro i s s'
  obtain ⟨t, ht⟩ := exec_next i s
  obtain ⟨t', ht'⟩ := exec_next i s'
  have hw := exec_outputsWritten ht
  have hw' := exec_outputsWritten ht'
  exact ⟨t, t', ht, ht', exec_result_agree ht ht',
    fun j => written_or_kept (hw.digit j) (hw'.digit j), fun j => written_or_kept (hw.duty j) (hw'.duty j),
    written_or_kept hw.dpmask hw'.dpmask, written_or_kept hw.led hw'.led⟩

end Sys2Proof.Machine
end

section
/-! The model-level marks (O35). The refusal mark follows from which command words the decoder accepts (R54), the fault
mark from which temperatures have a rendering (R113): those below 0x4D4CCCCD, settled at that boundary by monotonicity. -/

namespace Sys2Proof.Machine

/-! ### The words the decoder accepts -/

theorem isOk_withoutChannel (word : Byte) (i : Instr) : (withoutChannel word i).isOk = !chField word := by
  unfold withoutChannel
  cases chField word <;> rfl

theorem opField_cases : ∀ op : BitVec 3,
    op = 0#3 ∨ op = 1#3 ∨ op = 2#3 ∨ op = 3#3 ∨ op = 4#3 ∨ op = 5#3 ∨ op = 6#3 ∨ op = 7#3 := by
  decide

/-- A selector is accepted when it takes a channel or the channel bit is clear (R51, R57). -/
theorem isOk_decodeOp (op : BitVec 3) (ch : Channel) (c : Command) :
    (decodeOp op ch c).isOk = ([1#3, 2#3, 4#3, 5#3].contains op || !chField c.word) := by
  rcases opField_cases op with rfl | rfl | rfl | rfl | rfl | rfl | rfl | rfl
  · exact isOk_withoutChannel _ _
  · rfl
  · rfl
  · exact isOk_withoutChannel _ _
  · rfl
  · rfl
  · exact isOk_withoutChannel _ _
  · exact isOk_withoutChannel _ _

/-- The decoder accepts the well-formed command words and no other (R54, R57). -/
theorem isOk_decode (c : Command) : (decode c).isOk = c.wellFormed := by
  unfold decode Command.wellFormed Command.reservedClear
  by_cases hrsv : rsvField c.word = 0#4
  · rw [if_neg (not_not_intro hrsv), isOk_decodeOp, show c.word.extractLsb' 4 4 = 0#4 from hrsv]
    rfl
  · rw [if_pos hrsv, show (c.word.extractLsb' 4 4 == 0#4) = false from beq_false_of_ne hrsv]
    rfl

/-! ### The temperatures that have a rendering (R113) -/

/-- The boundary of R113 in encodings: 0x4D4CCCCD is the first that is outside, 0x4D4CCCCC the last that is inside. -/
theorem outsideDomain_magOfBits (bits : Nat) :
    outsideDomain (.fin false (magOfBits bits)) = true ↔ 0x4D4CCCCD ≤ bits := by
  constructor
  · intro h
    by_contra hlt
    have hlast : outsideDomain (.fin false (magOfBits 0x4D4CCCCC)) = false := by decide
    have hout := outsideDomain_mono (magOfBits_mono (show bits ≤ 0x4D4CCCCC by omega)) h
    exact absurd hout (by rw [hlast]; decide)
  · intro h
    have hfirst : outsideDomain (.fin false (magOfBits 0x4D4CCCCD)) = true := by decide
    exact outsideDomain_mono (magOfBits_mono h) hfirst

/-- Inside the domain `s` is finite, so its integer conversion has a meaning (R112). -/
theorem floorInt_scaledTenths_ne_none {mag : Nat} (h : ¬ outsideDomain (.fin false mag) = true) :
    floorInt (scaledTenths (.fin false mag)) ≠ none := by
  have hbound : 2 ^ 31 * unitsPerOne ≤ overflowUnits := Nat.mul_le_mul_right _ (by decide)
  rw [outsideDomain_fin, not_or] at h
  obtain ⟨hproduct, hsum⟩ := h
  rw [scaledTenths_fin, if_neg hproduct, if_neg (by omega), floorInt_fin]
  exact Option.some_ne_none _

/-- The sum of a non-negative temperature and a half is the rounded exact sum. -/
theorem fadd_half (mag : Nat) : fadd (.fin false mag) fpHalf = ofRatio false (mag + 2 ^ 148) 1 := by
  have hsum : signedUnits false mag + signedUnits false (2 ^ 148) = ((mag + 2 ^ 148 : Nat) : Int) := by
    simp [signedUnits]
  have hpos := Nat.two_pow_pos 148
  rw [fpHalf, fadd_fin_of_ne_zero (by rw [hsum]; omega), hsum, Int.natAbs_natCast,
    decide_eq_false (by omega)]

/-- Inside the domain the sum with a half of R115's upper branch is finite: it rounds to no more than at the boundary. -/
theorem floorInt_fadd_half_ne_none {bits : Nat} (h : bits ≤ 0x4D4CCCCC) :
    floorInt (fadd (.fin false (magOfBits bits)) fpHalf) ≠ none := by
  have hmono : roundUnits (magOfBits bits + 2 ^ 148) 1 ≤ roundUnits (magOfBits 0x4D4CCCCC + 2 ^ 148) 1 := by
    apply roundUnits_mono Nat.one_pos Nat.one_pos
    have := magOfBits_mono h
    omega
  have hlast : roundUnits (magOfBits 0x4D4CCCCC + 2 ^ 148) 1 < overflowUnits := by decide
  rw [fadd_half, ofRatio, if_neg (by omega), floorInt_fin]
  exact Option.some_ne_none _

/-- Inside the domain a temperature has a rendering once both integer conversions of R110 have a meaning. -/
theorem renderTemp_ne_none {t : Fp} (hin : ¬ outsideDomain t = true) (hs : floorInt (scaledTenths t) ≠ none)
    (hwhole : floorInt (fadd t fpHalf) ≠ none) : renderTemp t ≠ none := by
  obtain ⟨n, hn⟩ := Option.ne_none_iff_exists'.1 hs
  obtain ⟨w, hw⟩ := Option.ne_none_iff_exists'.1 hwhole
  rw [renderTemp, if_neg hin, hn, hw]
  dsimp only
  split_ifs
  · exact Option.some_ne_none _
  · exact Option.some_ne_none _

theorem renderTemp_outside {t : Fp} (hout : outsideDomain t = true) : renderTemp t = none := by
  rw [renderTemp, if_pos hout]

/-- A non-negative finite temperature has no rendering exactly from 0x4D4CCCCD on (R113). -/
theorem renderTemp_magOfBits_eq_none (bits : Nat) :
    renderTemp (.fin false (magOfBits bits)) = none ↔ 0x4D4CCCCD ≤ bits := by
  constructor
  · intro hnone
    by_contra hlt
    have hin : ¬ outsideDomain (.fin false (magOfBits bits)) = true := mt (outsideDomain_magOfBits bits).1 hlt
    exact renderTemp_ne_none hin (floorInt_scaledTenths_ne_none hin) (floorInt_fadd_half_ne_none (by omega)) hnone
  · intro h
    exact renderTemp_outside ((outsideDomain_magOfBits bits).2 h)

/-- The clamp on values: below zero becomes +0.0, all else stays (R111). -/
theorem unpack_clampTemp (x : Binary32) :
    unpack (clampTemp x) = if flt (unpack x) (fpNat 0) = true then .fin false 0 else unpack x := by
  unfold clampTemp
  split_ifs
  · rfl
  · rfl

/-- -Infinity, a negative temperature and -0.0 render as zero does (R111). -/
theorem renderTemp_clampTemp_of_sign {x : Binary32} (hnan : isNaN (unpack x) = false) (hsign : x.getLsbD 31 = true) :
    renderTemp (unpack (clampTemp x)) = some { tenthsScaled := 0, whole := 0 } := by
  rw [unpack_clampTemp]
  by_cases he : x.extractLsb' 23 8 = 0xFF#8
  · by_cases hf : x.extractLsb' 0 23 = 0#23
    · rw [unpack_infinity he hf, hsign]
      decide
    · rw [unpack_nan he hf] at hnan
      exact absurd hnan (by decide)
  · rw [unpack_finite he, hsign]
    cases magOfBits (x.toNat % 2 ^ 31) with
    | zero => decide
    | succ m =>
      have hneg : flt (.fin true (m + 1)) (fpNat 0) = true := by
        refine decide_eq_true (?_ : -((m + 1 : Nat) : Int) < ((0 * unitsPerOne : Nat) : Int))
        omega
      rw [if_pos hneg]
      decide

/-- With the sign bit clear an encoding is its exponent and fraction fields. -/
theorem toNat_lt_of_sign_clear {x : Binary32} (hsign : x.getLsbD 31 = false) : x.toNat < 2 ^ 31 := by
  have hmsb : x.msb = false := by rw [BitVec.msb_eq_getLsbD_last]; exact hsign
  have := BitVec.msb_eq_false_iff_two_mul_lt.1 hmsb
  omega

/-- Every encoding with exponent all ones lies above the boundary of R113. -/
theorem boundary_le_of_exponent_ones {x : Binary32} (he : x.extractLsb' 23 8 = 0xFF#8) : 0x4D4CCCCD ≤ x.toNat := by
  have hnat := congrArg BitVec.toNat he
  rw [BitVec.extractLsb'_toNat, Nat.shiftRight_eq_div_pow] at hnat
  simp only [BitVec.toNat_ofNat] at hnat
  omega

/-- A temperature with the sign bit clear has no rendering when it is a NaN or from 0x4D4CCCCD on (R113). -/
theorem renderTemp_clampTemp_of_sign_clear {x : Binary32} (hsign : x.getLsbD 31 = false) :
    renderTemp (unpack (clampTemp x)) = none ↔ 0x4D4CCCCD ≤ x.toNat := by
  rw [unpack_clampTemp]
  by_cases he : x.extractLsb' 23 8 = 0xFF#8
  · refine iff_of_true ?_ (boundary_le_of_exponent_ones he)
    by_cases hf : x.extractLsb' 0 23 = 0#23
    · rw [unpack_infinity he hf, hsign]
      decide
    · rw [unpack_nan he hf]
      decide
  · rw [unpack_finite he, hsign, Nat.mod_eq_of_lt (toNat_lt_of_sign_clear hsign)]
    have hkept : ¬ flt (.fin false (magOfBits x.toNat)) (fpNat 0) = true := by
      simp [flt, fpNat, signedUnits]
    rw [if_neg hkept]
    exact renderTemp_magOfBits_eq_none x.toNat

/-- DISPTEMP has no rendering for its temperature exactly outside the domain of R113. -/
theorem renderTemp_clampTemp_eq_none (x : Binary32) :
    renderTemp (unpack (clampTemp x)) = none ↔ OutsideRenderDomain x := by
  cases hnan : isNaN (unpack x) with
  | true =>
    have hx : unpack x = .nan := by
      cases hu : unpack x with
      | nan => rfl
      | inf | fin => exact absurd hnan (by simp [hu])
    refine iff_of_true ?_ (.inl hnan)
    rw [unpack_clampTemp, hx]
    decide
  | false =>
    have hnot : ¬ isNaN (unpack x) = true := by rw [hnan]; decide
    rw [OutsideRenderDomain, or_iff_right hnot]
    cases hsign : x.getLsbD 31 with
    | true =>
      rw [renderTemp_clampTemp_of_sign hnan hsign]
      exact iff_of_false (Option.some_ne_none _) fun h => Bool.noConfusion h.1
    | false =>
      rw [renderTemp_clampTemp_of_sign_clear hsign]
      exact (and_iff_right rfl).symm

/-! ### The marks -/

/-- The operation is a DISPTEMP outside its domain (R113). -/
def Faulting : Instr → Prop
  | .disptemp _ tc tf useF => OutsideRenderDomain (selectTemp useF tc tf)
  | _ => False

theorem faulting_iff {i : Instr} :
    Faulting i ↔ ∃ ch tc tf useF, i = .disptemp ch tc tf useF ∧ OutsideRenderDomain (selectTemp useF tc tf) := by
  constructor
  · intro h
    cases i with
    | disptemp ch tc tf useF => exact ⟨ch, tc, tf, useF, rfl, h⟩
    | cel2fer | getlim | getfmt | displim | setrgb | dispdp | clrdisp => exact h.elim
  · rintro ⟨ch, tc, tf, useF, rfl, h⟩
    exact h

/-- A faulting operation sets the fault mark and no other; every other operation leaves both marks (R30, R162). -/
theorem exec_marks_cases {i : Instr} {s t : State} (h : exec i s = .next t) :
    (Faulting i ∧ t.fault ≠ none ∧ t.refused = s.refused) ∨ (¬ Faulting i ∧ SameMarks s t) := by
  cases i with
  | disptemp ch tc tf useF =>
    rcases execDisptemp_cases h with ⟨hr, rfl⟩ | ⟨r, hr, rfl⟩
    · exact .inl ⟨(renderTemp_clampTemp_eq_none _).1 hr, Option.some_ne_none _, rfl⟩
    · refine .inr ⟨fun hout => ?_, rfl, rfl⟩
      rw [(renderTemp_clampTemp_eq_none _).2 hout] at hr
      exact Option.some_ne_none r hr.symm
  | cel2fer tc =>
    obtain rfl := Host.Outcome.next.inj h
    obtain ⟨n, hframe⟩ := presentFloat_frame (celsiusToFahrenheit (unpack tc)) s
    rw [hframe]
    exact .inr ⟨id, rfl, rfl⟩
  | getlim | getfmt | displim | setrgb | dispdp | clrdisp =>
    obtain rfl := Host.Outcome.next.inj h
    exact .inr ⟨id, rfl, rfl⟩

/-- With a command to issue, the operation issued is the one it decodes to. -/
theorem issues_iff {s : State} {c : Command} {rest : List Command} (hp : s.pending = c :: rest) (i : Instr) :
    Issues s i ↔ decode c = .ok i := by
  simp [Issues, hp]

/-- From `s` to `t` a mark is set exactly where R162 and R163 set it, and stays set where it was. -/
def MarksExact (s t : State) : Prop :=
  (t.refused = true ↔ s.refused = true ∨ ∃ c rest, s.pending = c :: rest ∧ c.wellFormed = false) ∧
  (t.fault ≠ none ↔ s.fault ≠ none ∨
    ∃ ch tc tf useF, Issues s (.disptemp ch tc tf useF) ∧ OutsideRenderDomain (selectTemp useF tc tf))

/-- The next command is a DISPTEMP outside its domain exactly when the operation it decodes to is a faulting one. -/
theorem issues_disptemp_outside_iff {s : State} {c : Command} {rest : List Command} {i : Instr}
    (hp : s.pending = c :: rest) (hd : decode c = .ok i) :
    (∃ ch tc tf useF, Issues s (.disptemp ch tc tf useF) ∧ OutsideRenderDomain (selectTemp useF tc tf)) ↔
      Faulting i := by
  simp only [issues_iff hp, hd, Except.ok.injEq, faulting_iff]

/-- A step with no command leaves both marks, and there is no command that could set one. -/
theorem marksExact_idle {s : State} (hp : s.pending = []) : MarksExact s s := by
  simp [MarksExact, Issues, hp]

/-- Refusing an illegal word sets the refusal mark and leaves the fault mark (R163). -/
theorem marksExact_refused {s : State} {c : Command} {rest : List Command} {e : Invalid}
    (hp : s.pending = c :: rest) (hd : decode c = .error e) :
    MarksExact s (refuseCommand { s with pending := rest }) := by
  have hwf : c.wellFormed = false := by
    rw [← isOk_decode, hd]
    rfl
  refine ⟨iff_of_true rfl (.inr ⟨c, rest, hp, hwf⟩), ?_⟩
  simp [issues_iff hp, hd]

/-- Running an operation leaves the refusal mark, and sets the fault mark exactly when the operation is a faulting one
(R162). -/
theorem marksExact_exec {s t : State} {c : Command} {rest : List Command} {i : Instr} (hp : s.pending = c :: rest)
    (hd : decode c = .ok i) (hx : exec i { s with pending := rest } = .next t) : MarksExact s t := by
  have hwf : c.wellFormed = true := by
    rw [← isOk_decode, hd]
    rfl
  rw [MarksExact, issues_disptemp_outside_iff hp hd]
  rcases exec_marks_cases hx with ⟨hfaulting, hfault, hrefused⟩ | ⟨hfaulting, hfault, hrefused⟩
  · simp [hp, hwf, hrefused, hfault, hfaulting]
  · simp [hp, hwf, hrefused, hfault, hfaulting]

/-- Settles O35, over what a step can do. -/
theorem marksAreSetExactlyAndNeverCleared : Obligations.MarksAreSetExactlyAndNeverCleared := by
  refine ⟨rfl, rfl, fun s t h => ?_⟩
  rcases step_cases h with ⟨hp, rfl⟩ | ⟨c, rest, e, hp, hd, rfl⟩ | ⟨c, rest, i, hp, hd, hx⟩
  · exact marksExact_idle hp
  · exact marksExact_refused hp hd
  · exact marksExact_exec hp hd hx

end Sys2Proof.Machine
end

section
/-! The rules of 20_memory.md: performing an operation twice is performing it once (O34, R45), and every step answers and
takes one command off the host's list (O7, R47). -/

namespace Sys2Proof.Machine

/-! ### Once more is the same -/

/-- A second write of the same value on top of the first changes nothing. -/
theorem written_twice {α : Type} {w old new again : Option α} (hnew : new = w.or old) (hagain : again = w.or new) :
    again = new := by
  rw [hagain, hnew, ← Option.or_assoc, Option.or_self]

/-- The writes of an operation made a second time change no output register. -/
theorem OutputsWritten.sameOutputs_twice {i : Instr} {s t u : State} (h : OutputsWritten i s t)
    (h' : OutputsWritten i t u) : SameOutputs t u :=
  ⟨digit_ext fun j => written_twice (h.digit j) (h'.digit j), written_twice h.dpmask h'.dpmask,
    duty_ext fun j => written_twice (h.duty j) (h'.duty j), written_twice h.led h'.led⟩

/-- A second fault with the same record leaves the record the first one left, whichever of the two log 6 lets stand. -/
theorem recordAfter_twice (old : Option FaultRecord) (new : FaultRecord) :
    recordAfter (some (recordAfter old new)) new = recordAfter old new := by
  rcases recordAfter_cases (some (recordAfter old new)) new with hnew | hold
  · rcases recordAfter_cases old new with hnew' | hold'
    · exact hnew.trans hnew'.symm
    · rw [← hold']
  · exact (Option.some.inj hold).symm

/-- DISPTEMP outside its domain raises the fault and does nothing else (R113, R162). -/
theorem exec_disptemp_outside (ch : Channel) {tc tf : Binary32} {useF : Bool}
    (hout : OutsideRenderDomain (selectTemp useF tc tf)) (s : State) :
    exec (.disptemp ch tc tf useF) s = .next (raiseFault ch (clampTemp (selectTemp useF tc tf)) s) :=
  execDisptemp_of_none s ((renderTemp_clampTemp_eq_none _).2 hout)

/-- An operation performed a second time changes no mark: a faulting one raises the same fault again, and any other leaves
the marks alone. -/
theorem exec_sameMarks_twice {i : Instr} {s t u : State} (ht : exec i s = .next t) (hu : exec i t = .next u) :
    SameMarks t u := by
  rcases exec_marks_cases hu with ⟨hfaulting, -, hrefused⟩ | ⟨-, hsame⟩
  · obtain ⟨ch, tc, tf, useF, rfl, hout⟩ := faulting_iff.1 hfaulting
    obtain rfl := Host.Outcome.next.inj ((exec_disptemp_outside ch hout s).symm.trans ht)
    obtain rfl := Host.Outcome.next.inj ((exec_disptemp_outside ch hout _).symm.trans hu)
    exact ⟨congrArg some (recordAfter_twice s.fault _), hrefused⟩
  · exact hsame

/-- Settles O34: the second run makes the same writes and raises the same fault, if any. -/
theorem operationsAreIdempotent : Obligations.OperationsAreIdempotent := by
  intro i s
  obtain ⟨t, ht⟩ := exec_next i s
  obtain ⟨u, hu⟩ := exec_next i t
  exact ⟨t, u, ht, hu, (exec_outputsWritten ht).sameOutputs_twice (exec_outputsWritten hu), exec_sameMarks_twice ht hu⟩

/-! ### The host's list -/

/-- No operation touches the host's list of commands (log 1). -/
theorem exec_pending {i : Instr} {s t : State} (h : exec i s = .next t) : t.pending = s.pending := by
  cases i with
  | disptemp ch tc tf useF =>
    rcases execDisptemp_cases h with ⟨-, rfl⟩ | ⟨r, -, rfl⟩
    · rfl
    · rfl
  | cel2fer tc =>
    obtain rfl := Host.Outcome.next.inj h
    obtain ⟨n, hframe⟩ := presentFloat_frame (celsiusToFahrenheit (unpack tc)) s
    rw [hframe]
  | getlim | getfmt | displim | setrgb | dispdp | clrdisp =>
    obtain rfl := Host.Outcome.next.inj h
    rfl

/-- A legal command word runs its operation on the state with the command taken off the list (R50, R57). -/
theorem step_legal {s : State} {c : Command} {rest : List Command} {i : Instr} (h : s.pending = c :: rest)
    (hd : decode c = .ok i) : step s = exec i { s with pending := rest } := by
  simp [step, takeCommand, h, hd]

/-- Every step answers a next state: the idle step, the refusal and every operation do (R47, R160). -/
theorem step_next (s : State) : ∃ t, step s = .next t := by
  cases hp : s.pending with
  | nil => exact ⟨s, step_idle hp⟩
  | cons c rest =>
    cases hd : decode c with
    | error e => exact ⟨_, step_illegal hp hd⟩
    | ok i =>
      obtain ⟨t, ht⟩ := exec_next i { s with pending := rest }
      exact ⟨t, (step_legal hp hd).trans ht⟩

/-- A step takes the head of the host's list, when there is one, and leaves the rest (log 1, log 2). -/
theorem step_pending {s t : State} (h : step s = .next t) : t.pending = s.pending.tail := by
  rcases step_cases h with ⟨hp, rfl⟩ | ⟨c, rest, e, hp, -, rfl⟩ | ⟨c, rest, i, hp, -, hx⟩
  · rw [hp, List.tail_nil]
  · rw [hp, List.tail_cons, refuseCommand_pending]
  · rw [hp, List.tail_cons, exec_pending hx]

/-- Settles O7. -/
theorem everyStepAnswersAndTakesOneCommand : Obligations.EveryStepAnswersAndTakesOneCommand := by
  intro s
  obtain ⟨t, ht⟩ := step_next s
  exact ⟨t, ht, step_pending ht⟩

end Sys2Proof.Machine
end

section
/-! The encoding of 30_encoding.md: a command word is its three fields (R51), decoding and encoding agree in both
directions (O1, O2, R55, R57), the words that decode are the twelve of R53 (O3, O4, O8), and a step runs what the decoder
reads (O5, O6). -/

namespace Sys2Proof.Machine

/-! ### One-bit operands (R11, R12) -/

@[simp] theorem bitOfChannel_channelOfBit (b : Bool) : bitOfChannel (channelOfBit b) = b := by
  cases b <;> rfl

@[simp] theorem channelOfBit_bitOfChannel (ch : Channel) : channelOfBit (bitOfChannel ch) = ch := by
  cases ch <;> rfl

theorem bitOfColor_colorOfBit : ∀ b : BitVec 1, bitOfColor (colorOfBit b) = b := by
  decide

@[simp] theorem colorOfBit_bitOfColor (color : AlertColor) : colorOfBit (bitOfColor color) = color := by
  cases color <;> rfl

theorem ofBool_boolOfBit : ∀ b : BitVec 1, BitVec.ofBool (boolOfBit b) = b := by
  decide

@[simp] theorem boolOfBit_ofBool (b : Bool) : boolOfBit (BitVec.ofBool b) = b := by
  cases b <;> rfl

/-! ### The fields of a command word (R51) -/

/-- A command word with its reserved bits clear is put together from its channel bit and its selector. -/
theorem commandWord_fields {word : Byte} (h : rsvField word = 0#4) : commandWord (opField word) (chField word) = word := by
  have hch : BitVec.ofBool (chField word) = word.extractLsb' 3 1 := by
    rw [chField, BitVec.getLsbD_eq_extractLsb']
    exact ofBool_boolOfBit _
  have htop : word.extractLsb' 4 4 ++ word.extractLsb' 3 1 = word.extractLsb' 3 5 :=
    BitVec.extractLsb'_append_extractLsb'_eq_extractLsb' rfl
  rw [commandWord, hch, opField, ← h, rsvField, htop]
  exact BitVec.extractLsb'_append_extractLsb'

@[simp] theorem rsvField_commandWord : ∀ (op : BitVec 3) (b : Bool), rsvField (commandWord op b) = 0#4 := by
  decide

@[simp] theorem chField_commandWord : ∀ (op : BitVec 3) (b : Bool), chField (commandWord op b) = b := by
  decide

@[simp] theorem opField_commandWord : ∀ (op : BitVec 3) (b : Bool), opField (commandWord op b) = op := by
  decide

/-! ### Decode and encode -/

/-- A word put together from its fields is decoded by its selector (R57). -/
theorem decode_commandWord (op : BitVec 3) (b : Bool) (p : Ports) :
    decode { word := commandWord op b, ports := p } =
      decodeOp op (channelOfBit b) { word := commandWord op b, ports := p } := by
  simp [decode]

/-- Only a word with its reserved bits clear decodes (R54). -/
theorem rsvField_eq_zero_of_decode {c : Command} {i : Instr} (h : decode c = .ok i) : rsvField c.word = 0#4 := by
  by_contra hrsv
  rw [decode, if_pos hrsv] at h
  cases h

/-- An operation without a channel is read from a word exactly when its channel bit is clear (R51). -/
theorem withoutChannel_eq_ok {word : Byte} {i j : Instr} :
    withoutChannel word i = .ok j ↔ chField word = false ∧ i = j := by
  unfold withoutChannel
  cases chField word <;> simp

/-- What a selector reads is an operation of that selector, with the word's channel, where it takes one, and the operands
that are on its ports. -/
theorem encode_word_of_decodeOp {op : BitVec 3} {b : Bool} {p : Ports} {i : Instr}
    (h : decodeOp op (channelOfBit b) { word := commandWord op b, ports := p } = .ok i) :
    commandWord op b = (encode i).word ∧ ReadsPorts i p := by
  have channel_word (op : BitVec 3) : commandWord op b = commandWord op (bitOfChannel (channelOfBit b)) := by
    rw [bitOfChannel_channelOfBit]
  have no_channel {op : BitVec 3} {j : Instr} (h : withoutChannel (commandWord op b) j = .ok i) : b = false ∧ j = i := by
    simpa [withoutChannel_eq_ok] using h
  rcases opField_cases op with rfl | rfl | rfl | rfl | rfl | rfl | rfl | rfl
  · obtain ⟨rfl, rfl⟩ := no_channel h
    exact ⟨rfl, rfl⟩
  · obtain rfl := Except.ok.inj h
    exact ⟨channel_word 1, rfl⟩
  · obtain rfl := Except.ok.inj h
    exact ⟨channel_word 2, rfl⟩
  · obtain ⟨rfl, rfl⟩ := no_channel h
    exact ⟨rfl, rfl, rfl⟩
  · obtain rfl := Except.ok.inj h
    exact ⟨channel_word 4, (bitOfColor_colorOfBit _).symm⟩
  · obtain rfl := Except.ok.inj h
    exact ⟨channel_word 5, rfl, rfl, (ofBool_boolOfBit _).symm⟩
  · obtain ⟨rfl, rfl⟩ := no_channel h
    exact ⟨rfl, (ofBool_boolOfBit _).symm, (ofBool_boolOfBit _).symm⟩
  · obtain ⟨rfl, rfl⟩ := no_channel h
    exact ⟨rfl, trivial⟩

/-- The word of an operation with a channel is decoded by its selector and that channel. -/
theorem decode_channelWord (op : BitVec 3) (ch : Channel) (p : Ports) :
    decode { word := commandWord op (bitOfChannel ch), ports := p } =
      decodeOp op ch { word := commandWord op (bitOfChannel ch), ports := p } := by
  rw [decode_commandWord, channelOfBit_bitOfChannel]

/-- A selector without a channel reads its operation from the word whose channel bit is clear (R51, R57). -/
theorem decode_plainWord {op : BitVec 3} {p : Ports} {i : Instr}
    (h : ∀ word, decodeOp op .external { word := word, ports := p } = withoutChannel word i) :
    decode { word := commandWord op false, ports := p } = .ok i := by
  rw [decode_commandWord]
  exact (h _).trans (withoutChannel_eq_ok.2 ⟨chField_commandWord op false, rfl⟩)

/-- An operation's word, with the operation's operands on the ports it reads, decodes to the operation whatever the other
ports carry (R52, R55). -/
theorem decode_encode_word {i : Instr} {p : Ports} (h : ReadsPorts i p) :
    decode { word := (encode i).word, ports := p } = .ok i := by
  cases i with
  | cel2fer tc =>
    obtain rfl := h
    exact decode_plainWord fun _ => rfl
  | getlim ch w =>
    obtain rfl := h
    exact decode_channelWord 1 ch p
  | getfmt ch w =>
    obtain rfl := h
    exact decode_channelWord 2 ch p
  | displim a b =>
    obtain ⟨rfl, rfl⟩ := h
    exact decode_plainWord fun _ => rfl
  | setrgb ch color =>
    rw [← colorOfBit_bitOfColor color, ← show p.color = bitOfColor color from h]
    exact decode_channelWord 4 ch p
  | disptemp ch tc tf useF =>
    obtain ⟨rfl, rfl, huseF⟩ := h
    rw [← boolOfBit_ofBool useF, ← huseF]
    exact decode_channelWord 5 ch p
  | dispdp intOH extOH =>
    obtain ⟨hint, hext⟩ := h
    rw [← boolOfBit_ofBool intOH, ← boolOfBit_ofBool extOH, ← hint, ← hext]
    exact decode_plainWord fun _ => rfl
  | clrdisp => exact decode_plainWord fun _ => rfl

/-- Settles O2: a word that decodes is its selector and its channel bit, and its operation's word has the same two. -/
theorem decodingIsExactlyTheEncodingTable : Obligations.DecodingIsExactlyTheEncodingTable := by
  rintro ⟨word, p⟩ i
  constructor
  · intro h
    have hword : commandWord (opField word) (chField word) = word := commandWord_fields (rsvField_eq_zero_of_decode h)
    rw [← hword, decode_commandWord] at h
    obtain ⟨hencode, hports⟩ := encode_word_of_decodeOp h
    exact ⟨hword.symm.trans hencode, hports⟩
  · rintro ⟨rfl, hports⟩
    exact decode_encode_word hports

/-- The command that `encode` writes carries the operands on the ports R55 names. -/
theorem readsPorts_encode (i : Instr) : ReadsPorts i (encode i).ports := by
  cases i with
  | cel2fer | getlim | getfmt | setrgb => rfl
  | displim | dispdp => exact ⟨rfl, rfl⟩
  | disptemp => exact ⟨rfl, rfl, rfl⟩
  | clrdisp => trivial

/-- Settles O1. -/
theorem encodedInstructionsDecodeToThemselves : Obligations.EncodedInstructionsDecodeToThemselves :=
  fun i => decode_encode_word (readsPorts_encode i)

/-! ### The twelve words (R53, R54) -/

/-- The word of every operation is one of the twelve. -/
theorem encode_word_mem_legalWords (i : Instr) : (encode i).word ∈ legalWords := by
  cases i with
  | cel2fer tc => exact (Laws.EncodeLegal.cel2fer tc).2
  | getlim ch w => exact (Laws.EncodeLegal.getlim ch w).2
  | getfmt ch w => exact (Laws.EncodeLegal.getfmt ch w).2
  | displim a b => exact (Laws.EncodeLegal.displim a b).2
  | setrgb ch color => exact (Laws.EncodeLegal.setrgb ch color).2
  | disptemp ch tc tf useF => exact (Laws.EncodeLegal.disptemp ch tc tf useF).2
  | dispdp intOH extOH => exact (Laws.EncodeLegal.dispdp intOH extOH).2
  | clrdisp => exact Laws.EncodeLegal.clrdisp.2

/-- A word that is none of the twelve is refused: what decodes is some operation's word. -/
theorem decode_error_of_not_mem_legalWords {c : Command} (h : c.word ∉ legalWords) : ∃ e, decode c = .error e := by
  cases hd : decode c with
  | error e => exact ⟨e, rfl⟩
  | ok i =>
    obtain ⟨hword, -⟩ := (decodingIsExactlyTheEncodingTable c i).1 hd
    exact absurd (hword ▸ encode_word_mem_legalWords i) h

/-- Settles O3: each of the twelve words is the word of its operation, read by O2 backwards. -/
theorem decoderMatchesTheTwelveWords : Obligations.DecoderMatchesTheTwelveWords := by
  intro p
  have hcolor : p.color = bitOfColor (if p.color = 1#1 then .red else .green) := (bitOfColor_colorOfBit p.color).symm
  have hbit (b : BitVec 1) : b = BitVec.ofBool (b == 1#1) := (ofBool_boolOfBit b).symm
  have reads {word : Byte} {i : Instr} (hword : word = (encode i).word) (hports : ReadsPorts i p) :
      decode { word := word, ports := p } = .ok i :=
    (decodingIsExactlyTheEncodingTable _ i).2 ⟨hword, hports⟩
  exact ⟨reads rfl rfl, reads rfl rfl, reads rfl rfl, reads rfl rfl, reads rfl rfl, reads rfl ⟨rfl, rfl⟩,
    reads rfl hcolor, reads rfl hcolor, reads rfl ⟨rfl, rfl, hbit _⟩, reads rfl ⟨rfl, rfl, hbit _⟩,
    reads rfl ⟨hbit _, hbit _⟩, reads rfl trivial, fun _ h => decode_error_of_not_mem_legalWords h⟩

/-- With the reserved bits clear, the words that are none of the twelve are the four with the channel bit on an operation
that takes no channel (R54). -/
theorem commandWord_not_mem_legalWords : ∀ (op : BitVec 3) (b : Bool), commandWord op b ∉ legalWords →
    commandWord op b ∈ [0x08#8, 0x0B#8, 0x0E#8, 0x0F#8] := by
  decide

/-- The two kinds of illegal word (R54). -/
theorem illegalWord_cases {word : Byte} (h : word ∉ legalWords) :
    rsvField word ≠ 0#4 ∨ word ∈ [0x08#8, 0x0B#8, 0x0E#8, 0x0F#8] := by
  by_cases hrsv : rsvField word = 0#4
  · rw [← commandWord_fields hrsv] at h ⊢
    exact .inr (commandWord_not_mem_legalWords _ _ h)
  · exact .inl hrsv

/-- Settles O8: the decoder refuses the word, and refusing sets the mark and writes no register. -/
theorem illegalWordsAreRefused : Obligations.IllegalWordsAreRefused := by
  intro s c rest hp hword
  obtain ⟨e, hd⟩ := decode_error_of_not_mem_legalWords hword
  exact ⟨illegalWord_cases hword, ⟨e, hd⟩, refuseCommand { s with pending := rest }, step_illegal hp hd,
    rfl, rfl, ⟨rfl, rfl, rfl, rfl⟩, rfl, rfl, rfl⟩

/-! ### Words placed from the table's bits -/

/-- The table's bits spell an operation exactly when their command decodes to it. -/
theorem decodeTableWord_eq_some {nbits w : Nat} {i : Instr} :
    decodeTableWord nbits w = some i ↔ decode (commandOfBits nbits w) = .ok i := by
  unfold decodeTableWord
  cases decode (commandOfBits nbits w) <;> simp

/-- Bits that are the command `encode` writes for an operation spell that operation. -/
theorem decodeTableWord_of_encode {nbits w : Nat} {i : Instr} (h : commandOfBits nbits w = encode i) :
    decodeTableWord nbits w = some i :=
  decodeTableWord_eq_some.2 (h ▸ encodedInstructionsDecodeToThemselves i)

/-- Settles O4: the eight legal samples are what `encode` writes, and 0x0F is CLRDISP with its channel bit set. -/
theorem sampleWordsDecode : Obligations.SampleWordsDecode :=
  ⟨decodeTableWord_of_encode rfl, decodeTableWord_of_encode rfl, decodeTableWord_of_encode rfl,
    decodeTableWord_of_encode rfl, decodeTableWord_of_encode rfl, decodeTableWord_of_encode rfl,
    decodeTableWord_of_encode rfl, decodeTableWord_of_encode rfl, by decide⟩

/-! ### The step -/

/-- Settles O5. -/
theorem stepRunsTheDecodedInstruction : Obligations.StepRunsTheDecodedInstruction :=
  ⟨fun _ _ _ _ hp hd => step_legal hp hd, fun _ hp => step_idle hp⟩

/-- Settles O6: the placed command is the head of the list, and taking it off gives the state before it was placed. -/
theorem placedWordIsRunByTheNextStep : Obligations.PlacedWordIsRunByTheNextStep :=
  fun s nbits w _ h => step_legal (putCommand_pending (commandOfBits nbits w) s) (decodeTableWord_eq_some.1 h)

end Sys2Proof.Machine
end

section
/-! The values that an encoding stands for (R10): every rounding gives one, so a sum or quotient presented on the result
port is read back from its encoding unchanged. -/

namespace Sys2Proof.Machine

/-! ### The fields of an encoding as numbers -/

theorem exponent_toNat (x : Binary32) : (x.extractLsb' 23 8).toNat = x.toNat % 2 ^ 31 / 2 ^ 23 := by
  rw [BitVec.extractLsb'_toNat, Nat.shiftRight_eq_div_pow]
  omega

theorem fraction_toNat (x : Binary32) : (x.extractLsb' 0 23).toNat = x.toNat % 2 ^ 31 % 2 ^ 23 := by
  rw [BitVec.extractLsb'_toNat, Nat.shiftRight_zero]
  omega

/-- The sign bit is the top bit. -/
theorem sign_eq_decide (x : Binary32) : x.getLsbD 31 = decide (2 ^ 31 ≤ x.toNat) :=
  (BitVec.msb_eq_getLsbD_last x).symm.trans (BitVec.msb_eq_decide x)

/-- The fields of an encoding below 0x7F800000 in magnitude are those of a finite value. -/
theorem unpack_of_bits_lt {x : Binary32} (h : x.toNat % 2 ^ 31 < 0x7F800000) :
    unpack x = .fin (x.getLsbD 31) (magOfBits (x.toNat % 2 ^ 31)) := by
  refine unpack_finite fun he => ?_
  have hexp := congrArg BitVec.toNat he
  rw [exponent_toNat, BitVec.toNat_ofNat] at hexp
  omega

theorem unpack_of_bits_eq {x : Binary32} (h : x.toNat % 2 ^ 31 = 0x7F800000) : unpack x = .inf (x.getLsbD 31) := by
  have hexp : (x.extractLsb' 23 8).toNat = (0xFF#8).toNat := by rw [exponent_toNat, h]; rfl
  have hfrac : (x.extractLsb' 0 23).toNat = (0#23).toNat := by rw [fraction_toNat, h]; rfl
  exact unpack_infinity (BitVec.eq_of_toNat_eq hexp) (BitVec.eq_of_toNat_eq hfrac)

/-- A subnormal encoding stands for a magnitude below the smallest normal one, 2^23 units, and not zero (R10). -/
theorem unpack_of_subnormal {x : Binary32} (he : x.extractLsb' 23 8 = 0#8) (hf : x.extractLsb' 0 23 ≠ 0#23) :
    ∃ mag, unpack x = .fin (x.getLsbD 31) mag ∧ 0 < mag ∧ mag < 2 ^ 23 := by
  have hexp : x.toNat % 2 ^ 31 / 2 ^ 23 = 0 := by rw [← exponent_toNat, he]; rfl
  have hfrac : x.toNat % 2 ^ 31 % 2 ^ 23 ≠ 0 := by
    rw [← fraction_toNat]
    exact fun h => hf (BitVec.eq_of_toNat_eq h)
  refine ⟨_, unpack_of_bits_lt (by omega), ?_⟩
  rw [magOfBits, if_pos hexp]
  omega

/-! ### Representable values -/

/-- The value is that of some encoding: a finite magnitude is that of an exponent and fraction below 0x7F800000. -/
def Representable : Fp → Prop
  | .nan => True
  | .inf _ => True
  | .fin _ mag => ∃ bits, bits < 0x7F800000 ∧ magOfBits bits = mag

/-- The encoding with the sign `neg` and the lower bits `bits` has these. -/
theorem sign_append_bits (neg : Bool) {bits : Nat} (h : bits < 2 ^ 31) :
    (BitVec.ofBool neg ++ BitVec.ofNat 31 bits).getLsbD 31 = neg ∧
    (BitVec.ofBool neg ++ BitVec.ofNat 31 bits).toNat % 2 ^ 31 = bits := by
  have hlow : (BitVec.ofBool neg ++ BitVec.ofNat 31 bits).extractLsb' 0 31 = BitVec.ofNat 31 bits :=
    BitVec.extractLsb'_append_eq_right
  have hnat := congrArg BitVec.toNat hlow
  rw [BitVec.extractLsb'_toNat, Nat.shiftRight_zero, BitVec.toNat_ofNat, Nat.mod_eq_of_lt h] at hnat
  exact ⟨BitVec.getLsbD_append.trans (by cases neg <;> rfl), hnat⟩

/-- Unpacking the encoding of a representable value gives the value back (R10). -/
theorem unpack_pack {nan : Binary32} (hnan : unpack nan = .nan) {v : Fp} (h : Representable v) :
    unpack (pack nan v) = v := by
  cases v with
  | nan => exact hnan
  | inf neg =>
    rw [pack_inf]
    cases neg <;> decide
  | fin neg mag =>
    obtain ⟨bits, hbits, rfl⟩ := h
    obtain ⟨hsign, hlow⟩ := sign_append_bits neg (show bits < 2 ^ 31 by omega)
    rw [pack, bitsOfMag_magOfBits, unpack_of_bits_lt (by rwa [hlow]), hsign, hlow]

/-- A significand of 24 bits shifted by `k`, or a shorter one not shifted, has the exponent and fraction fields
`k * 2^23 + m`; one that was rounded up to 2^24 carries into the exponent. -/
theorem magOfBits_shifted {m k : Nat} (hm : m ≤ 2 ^ 24) (hk : k = 0 ∨ 2 ^ 23 ≤ m) :
    magOfBits (k * 2 ^ 23 + m) = m * 2 ^ k := by
  rcases Nat.lt_or_ge m (2 ^ 23) with hshort | hfull
  · obtain rfl : k = 0 := by omega
    rw [magOfBits, if_pos (by omega)]
    omega
  · rcases Nat.eq_or_lt_of_le hm with rfl | hlt
    · rw [magOfBits, if_neg (by omega), show (k * 2 ^ 23 + 2 ^ 24) % 2 ^ 23 = 0 by omega,
        show (k * 2 ^ 23 + 2 ^ 24) / 2 ^ 23 - 1 = k + 1 by omega, Nat.pow_succ 2 k]
      ring
    · rw [magOfBits, if_neg (by omega), show 2 ^ 23 + (k * 2 ^ 23 + m) % 2 ^ 23 = m by omega,
        show (k * 2 ^ 23 + m) / 2 ^ 23 - 1 = k by omega]

/-- A rounded magnitude is that of some exponent and fraction fields. -/
theorem roundUnits_eq_magOfBits (num : Nat) {den : Nat} (hd : 0 < den) : ∃ bits, magOfBits bits = roundUnits num den :=
  ⟨_, magOfBits_shifted (significand_le hd) ((Nat.eq_zero_or_pos _).imp_right (le_significand hd))⟩

/-- The fields of a magnitude below 2^128 are those of a finite value. -/
theorem bits_lt_of_magOfBits_lt {bits : Nat} (h : magOfBits bits < overflowUnits) : bits < 0x7F800000 := by
  by_contra hle
  have hmono := magOfBits_mono (show 0x7F800000 ≤ bits by omega)
  have htop : magOfBits 0x7F800000 = overflowUnits := by decide
  omega

/-- One rounding gives a representable value (R9). -/
theorem representable_ofRatio (neg : Bool) (num : Nat) {den : Nat} (hd : 0 < den) :
    Representable (ofRatio neg num den) := by
  obtain ⟨bits, hbits⟩ := roundUnits_eq_magOfBits num hd
  unfold ofRatio
  dsimp only
  split
  case isTrue => trivial
  case isFalse hfin => exact ⟨bits, bits_lt_of_magOfBits_lt (by omega), hbits⟩

theorem representable_zero (neg : Bool) : Representable (.fin neg 0) := ⟨0, by decide, rfl⟩

theorem representable_fdiv (x y : Fp) : Representable (fdiv x y) := by
  cases x with
  | nan => trivial
  | inf n => cases y <;> trivial
  | fin n a =>
    cases y with
    | nan => trivial
    | inf m => exact representable_zero _
    | fin m b =>
      rcases Nat.eq_zero_or_pos b with rfl | hb
      · rw [fdiv, if_pos rfl]
        split <;> trivial
      · rw [fdiv_fin n m a hb.ne']
        exact representable_ofRatio _ _ hb

theorem representable_fadd (x y : Fp) : Representable (fadd x y) := by
  cases x with
  | nan => trivial
  | inf n =>
    cases y with
    | inf m =>
      rw [fadd]
      split <;> trivial
    | nan | fin => trivial
  | fin n a =>
    cases y with
    | nan | inf => trivial
    | fin m b =>
      by_cases hz : signedUnits n a + signedUnits m b = 0
      · rw [fadd_fin_of_eq_zero hz]
        exact representable_zero _
      · rw [fadd_fin_of_ne_zero hz]
        exact representable_ofRatio _ _ Nat.one_pos

end Sys2Proof.Machine
end

section
/-! CEL2FER (40_format_converter.md): its result is the value of R70's formula (O9 to O11, O14), and the formula over the
magnitude of the operand, which is monotonic, so that the overflow threshold (O12) and the subnormal operands (O13) are
settled at the boundary encodings. -/

namespace Sys2Proof.Machine

/-! ### The result port -/

theorem resultOf_cel2fer (tc : Binary32) (s : State) :
    resultOf (exec (.cel2fer tc) s) = some (.tempF (pack (nextNaN s) (celsiusToFahrenheit (unpack tc)))) :=
  presentFloat_result _ s

/-- CEL2FER writes no register and no mark. -/
theorem exec_cel2fer_frame (tc : Binary32) (s : State) :
    ∃ t, exec (.cel2fer tc) s = .next t ∧
      t.result = some (.tempF (pack (nextNaN s) (celsiusToFahrenheit (unpack tc)))) ∧
      SameOutputs s t ∧ SameMarks s t ∧ t.pending = s.pending := by
  obtain ⟨n, hframe⟩ := presentFloat_frame (celsiusToFahrenheit (unpack tc)) s
  exact ⟨_, congrArg Host.Outcome.next hframe, rfl, ⟨rfl, rfl, rfl, rfl⟩, ⟨rfl, rfl⟩, rfl⟩

theorem eq_nan_of_isNaN {v : Fp} (h : isNaN v = true) : v = .nan := by
  cases v with
  | nan => rfl
  | inf | fin => exact absurd h Bool.false_ne_true

/-- The encoding presented stands for the formula's value: a sum is representable (R9). -/
theorem unpack_pack_celsiusToFahrenheit (tc : Binary32) (s : State) :
    unpack (pack (nextNaN s) (celsiusToFahrenheit (unpack tc))) = celsiusToFahrenheit (unpack tc) :=
  unpack_pack (eq_nan_of_isNaN (isNaN_nextNaN s)) (representable_fadd _ _)

/-- CEL2FER presents the encoding of the formula's value where that is no NaN. -/
theorem resultOf_cel2fer_of_eq {tc x : Binary32} (s : State) (hx : isNaN (unpack x) = false)
    (h : celsiusToFahrenheit (unpack tc) = unpack x) : resultOf (exec (.cel2fer tc) s) = some (.tempF x) := by
  rw [resultOf_cel2fer, h, packRestoresEveryNonNaN x _ hx]

/-- Settles O9. -/
theorem cel2ferComputesTheFormula : Obligations.Cel2ferComputesTheFormula := by
  intro tc s
  obtain ⟨t, hexec, hresult, houtputs, hmarks, hpending⟩ := exec_cel2fer_frame tc s
  exact ⟨t, _, hexec, hresult, unpack_pack_celsiusToFahrenheit tc s, houtputs, hmarks, hpending⟩

/-- Settles O10: where the formula is no NaN its encoding does not depend on the draw, and where it is, both are draws. -/
theorem cel2ferIsPure : Obligations.Cel2ferIsPure := by
  intro tc s s'
  obtain ⟨t, hexec, hresult, houtputs, hmarks, -⟩ := exec_cel2fer_frame tc s
  obtain ⟨t', hexec', hresult', houtputs', hmarks', -⟩ := exec_cel2fer_frame tc s'
  refine ⟨t, t', _, _, hexec, hexec', hresult, hresult', ?_, houtputs, hmarks, houtputs', hmarks'⟩
  rw [unpack_pack_celsiusToFahrenheit, unpack_pack_celsiusToFahrenheit, and_self]
  cases hnan : isNaN (celsiusToFahrenheit (unpack tc)) with
  | false => exact .inl (pack_congr hnan _ _)
  | true => exact .inr rfl

/-- Settles O11, by evaluating the formula at the six operands. -/
theorem cel2ferFixedValues : Obligations.Cel2ferFixedValues := by
  intro s
  exact ⟨resultOf_cel2fer_of_eq s (by decide) (by decide), resultOf_cel2fer_of_eq s (by decide) (by decide),
    resultOf_cel2fer_of_eq s (by decide) (by decide), resultOf_cel2fer_of_eq s (by decide) (by decide),
    resultOf_cel2fer_of_eq s (by decide) (by decide), resultOf_cel2fer_of_eq s (by decide) (by decide)⟩

/-! ### The formula in units -/

theorem fiveUnits_pos : 0 < 5 * unitsPerOne := Nat.mul_pos (by decide) unitsPerOne_pos

/-- The magnitude of `fmul(tc, 9)` in units, before overflow is looked at. -/
def ninefoldUnits (mag : Nat) : Nat := roundUnits (mag * (9 * unitsPerOne)) unitsPerOne

/-- The magnitude of `fdiv(fmul(tc, 9), 5)` in units, before overflow is looked at. -/
def nineFifthsUnits (mag : Nat) : Nat := roundUnits (ninefoldUnits mag * unitsPerOne) (5 * unitsPerOne)

theorem ninefoldUnits_mono {a b : Nat} (h : a ≤ b) : ninefoldUnits a ≤ ninefoldUnits b :=
  roundUnits_mono unitsPerOne_pos unitsPerOne_pos (Nat.mul_le_mul_right _ (Nat.mul_le_mul_right _ h))

theorem nineFifthsUnits_mono {a b : Nat} (h : a ≤ b) : nineFifthsUnits a ≤ nineFifthsUnits b :=
  roundUnits_mono fiveUnits_pos fiveUnits_pos (Nat.mul_le_mul_right _ (Nat.mul_le_mul_right _ (ninefoldUnits_mono h)))

theorem fmul_nine (neg : Bool) (mag : Nat) :
    fmul (.fin neg mag) (fpNat 9) =
      if overflowUnits ≤ ninefoldUnits mag then .inf neg else .fin neg (ninefoldUnits mag) := by
  rw [fpNat, fmul_fin, Bool.xor_false]
  rfl

theorem fdiv_ninefold_five (neg : Bool) (mag : Nat) :
    fdiv (.fin neg (ninefoldUnits mag)) (fpNat 5) =
      if overflowUnits ≤ nineFifthsUnits mag then .inf neg else .fin neg (nineFifthsUnits mag) := by
  rw [fpNat, fdiv_fin _ _ _ fiveUnits_pos.ne', Bool.xor_false]
  rfl

/-- From 0x7DE38E39 in magnitude the product overflows, and the infinity passes through (R70). -/
theorem celsiusToFahrenheit_overflow (neg : Bool) {bits : Nat} (h : 0x7DE38E39 ≤ bits) :
    celsiusToFahrenheit (.fin neg (magOfBits bits)) = .inf neg := by
  have hfirst : overflowUnits ≤ ninefoldUnits (magOfBits 0x7DE38E39) := by decide
  rw [celsiusToFahrenheit, fmul_nine, if_pos (hfirst.trans (ninefoldUnits_mono (magOfBits_mono h)))]
  cases neg <;> rfl

/-- Below 0x7DE38E39 in magnitude the product and the quotient are finite: they are at 0x7DE38E38. -/
theorem celsiusToFahrenheit_below (neg : Bool) {bits : Nat} (h : bits < 0x7DE38E39) :
    celsiusToFahrenheit (.fin neg (magOfBits bits)) =
      fadd (.fin neg (nineFifthsUnits (magOfBits bits))) (fpNat 32) := by
  have hmag := magOfBits_mono (show bits ≤ 0x7DE38E38 by omega)
  have hproduct : ninefoldUnits (magOfBits 0x7DE38E38) < overflowUnits := by decide
  have hquotient : nineFifthsUnits (magOfBits 0x7DE38E38) < overflowUnits := by decide
  rw [celsiusToFahrenheit, fmul_nine, if_neg ((ninefoldUnits_mono hmag).trans_lt hproduct).not_ge, fdiv_ninefold_five,
    if_neg ((nineFifthsUnits_mono hmag).trans_lt hquotient).not_ge]

/-! ### The sum with 32 -/

/-- The exact sum of a finite value and 32, in units. -/
def plusThirtyTwo (neg : Bool) (mag : Nat) : Int := signedUnits neg mag + signedUnits false (32 * unitsPerOne)

theorem plusThirtyTwo_false (mag : Nat) : plusThirtyTwo false mag = (mag : Int) + (32 * unitsPerOne : Nat) := rfl

theorem plusThirtyTwo_true (mag : Nat) : plusThirtyTwo true mag = -(mag : Int) + (32 * unitsPerOne : Nat) := rfl

theorem fadd_thirtyTwo_of_eq_zero {neg : Bool} {mag : Nat} (hz : plusThirtyTwo neg mag = 0) :
    fadd (.fin neg mag) (fpNat 32) = .fin (neg && false) 0 := fadd_fin_of_eq_zero hz

theorem fadd_thirtyTwo_of_ne_zero {neg : Bool} {mag : Nat} (hz : plusThirtyTwo neg mag ≠ 0) :
    fadd (.fin neg mag) (fpNat 32) = ofRatio (decide (plusThirtyTwo neg mag < 0)) (plusThirtyTwo neg mag).natAbs 1 :=
  fadd_fin_of_ne_zero hz

/-- Rounding a whole number of units is monotonic. -/
theorem roundUnits_one_mono {a b : Nat} (h : a ≤ b) : roundUnits a 1 ≤ roundUnits b 1 :=
  roundUnits_mono Nat.one_pos Nat.one_pos (Nat.mul_le_mul_right 1 h)

theorem natAbs_plusThirtyTwo_le (neg : Bool) (mag : Nat) : (plusThirtyTwo neg mag).natAbs ≤ mag + 32 * unitsPerOne := by
  cases neg with
  | false => rw [plusThirtyTwo_false]; omega
  | true => rw [plusThirtyTwo_true]; omega

theorem le_plusThirtyTwo (neg : Bool) (mag : Nat) : ((32 * unitsPerOne : Nat) : Int) - mag ≤ plusThirtyTwo neg mag := by
  cases neg with
  | false => rw [plusThirtyTwo_false]; omega
  | true => rw [plusThirtyTwo_true]; omega

/-! ### Overflow -/

/-- The sum with 32 does not overflow where the quotient is as below the threshold. -/
theorem fadd_thirtyTwo_finite (neg : Bool) {mag : Nat} (h : mag ≤ nineFifthsUnits (magOfBits 0x7DE38E38)) :
    ∃ n m, fadd (.fin neg mag) (fpNat 32) = .fin n m := by
  by_cases hz : plusThirtyTwo neg mag = 0
  · exact ⟨_, _, fadd_thirtyTwo_of_eq_zero hz⟩
  · have hlast : roundUnits (nineFifthsUnits (magOfBits 0x7DE38E38) + 32 * unitsPerOne) 1 < overflowUnits := by decide
    have hle := roundUnits_one_mono ((natAbs_plusThirtyTwo_le neg mag).trans (Nat.add_le_add_right h _))
    exact ⟨_, _, (fadd_thirtyTwo_of_ne_zero hz).trans (if_neg (hle.trans_lt hlast).not_ge)⟩

/-- Infinite operands and those from 0x7DE38E39 in magnitude give the infinity of their sign (R70). -/
theorem celsiusToFahrenheit_unpack_overflow {x : Binary32} (hlow : 0x7DE38E39 ≤ x.toNat % 2 ^ 31)
    (hhigh : x.toNat % 2 ^ 31 ≤ 0x7F800000) : celsiusToFahrenheit (unpack x) = .inf (x.getLsbD 31) := by
  rcases Nat.eq_or_lt_of_le hhigh with heq | hlt
  · rw [unpack_of_bits_eq heq]
    cases x.getLsbD 31 <;> rfl
  · rw [unpack_of_bits_lt hlt, celsiusToFahrenheit_overflow _ hlow]

/-- Settles O12: the product's overflow is decided at 0x7DE38E39 and 0x7DE38E38. -/
theorem cel2ferOverflowThresholds : Obligations.Cel2ferOverflowThresholds := by
  intro tc s
  refine ⟨fun ⟨hlow, hhigh⟩ => ?_, fun ⟨hlow, hhigh⟩ => ?_, fun hbelow => ?_⟩
  · have hsign : tc.getLsbD 31 = false := by rw [sign_eq_decide, decide_eq_false (by omega)]
    refine resultOf_cel2fer_of_eq s (by decide) ?_
    rw [celsiusToFahrenheit_unpack_overflow (by omega) (by omega), hsign]
    rfl
  · have hsign : tc.getLsbD 31 = true := by rw [sign_eq_decide, decide_eq_true (by omega)]
    refine resultOf_cel2fer_of_eq s (by decide) ?_
    rw [celsiusToFahrenheit_unpack_overflow (by omega) (by omega), hsign]
    rfl
  · obtain ⟨neg, mag, hfin⟩ := fadd_thirtyTwo_finite (tc.getLsbD 31)
      (nineFifthsUnits_mono (magOfBits_mono (show tc.toNat % 2 ^ 31 ≤ 0x7DE38E38 by omega)))
    refine ⟨_, neg, mag, resultOf_cel2fer tc s, ?_⟩
    rw [unpack_pack_celsiusToFahrenheit, unpack_of_bits_lt (by omega), celsiusToFahrenheit_below _ hbelow, hfin]

/-! ### Subnormal operands -/

/-- A magnitude of at most 2^24 units is lost beside 32: the sum lies where both bounds round to 32. -/
theorem fadd_thirtyTwo_tiny (neg : Bool) {mag : Nat} (h : mag ≤ 2 ^ 24) :
    fadd (.fin neg mag) (fpNat 32) = .fin false (32 * unitsPerOne) := by
  have hroom : 2 ^ 24 < 32 * unitsPerOne := by decide
  have hsum := le_plusThirtyTwo neg mag
  have hpos : 0 < plusThirtyTwo neg mag := by omega
  have hlow : 32 * unitsPerOne - 2 ^ 24 ≤ (plusThirtyTwo neg mag).natAbs := by omega
  have hhigh := (natAbs_plusThirtyTwo_le neg mag).trans (Nat.add_le_add_right h _)
  have hround : roundUnits (plusThirtyTwo neg mag).natAbs 1 = 32 * unitsPerOne := by
    apply Nat.le_antisymm
    · calc roundUnits (plusThirtyTwo neg mag).natAbs 1 ≤ roundUnits (2 ^ 24 + 32 * unitsPerOne) 1 :=
            roundUnits_one_mono hhigh
        _ = 32 * unitsPerOne := by decide
    · calc 32 * unitsPerOne = roundUnits (32 * unitsPerOne - 2 ^ 24) 1 := by decide
        _ ≤ roundUnits (plusThirtyTwo neg mag).natAbs 1 := roundUnits_one_mono hlow
  rw [fadd_thirtyTwo_of_ne_zero hpos.ne', decide_eq_false hpos.not_gt, ofRatio, hround]
  rfl

/-- Settles O13: the quotient of a subnormal operand stays far below the last bit of 32. -/
theorem cel2ferOfSubnormalIsThirtyTwo : Obligations.Cel2ferOfSubnormalIsThirtyTwo := by
  intro tc s h
  have hmag : nineFifthsUnits (magOfBits (tc.toNat % 2 ^ 31)) ≤ 2 ^ 24 :=
    calc nineFifthsUnits (magOfBits (tc.toNat % 2 ^ 31))
        ≤ nineFifthsUnits (magOfBits (2 ^ 23)) := nineFifthsUnits_mono (magOfBits_mono h.le)
      _ ≤ 2 ^ 24 := by decide
  refine resultOf_cel2fer_of_eq s (by decide) ?_
  rw [unpack_of_bits_lt (by omega), celsiusToFahrenheit_below _ (by omega), fadd_thirtyTwo_tiny _ hmag]
  decide

/-! ### No subnormal results -/

/-- From the exponent field k + 1 a magnitude is a multiple of 2^k. -/
theorem two_pow_dvd_magOfBits {bits k : Nat} (h : (k + 1) * 2 ^ 23 ≤ bits) : 2 ^ k ∣ magOfBits bits := by
  have hexp : k + 1 ≤ bits / 2 ^ 23 := (Nat.le_div_iff_mul_le (by decide)).2 h
  rw [magOfBits, if_neg (by omega)]
  exact Dvd.dvd.mul_left (Nat.pow_dvd_pow 2 (by omega)) _

/-- A finite encoding's value is -32 or at least 2^130 units (2^-19) from it: up to 2^153 units there is room, and from
there on both are multiples of 2^130. -/
theorem plusThirtyTwo_apart (neg : Bool) (bits : Nat) :
    plusThirtyTwo neg (magOfBits bits) = 0 ∨ 2 ^ 130 ≤ (plusThirtyTwo neg (magOfBits bits)).natAbs := by
  cases neg with
  | false =>
    rw [plusThirtyTwo_false, unitsPerOne]
    omega
  | true =>
    rw [plusThirtyTwo_true, unitsPerOne]
    rcases Nat.lt_or_ge bits (131 * 2 ^ 23) with hsmall | hlarge
    · have hmag := magOfBits_mono hsmall.le
      rw [show magOfBits (131 * 2 ^ 23) = 2 ^ 153 by decide] at hmag
      omega
    · have hdvd := two_pow_dvd_magOfBits (k := 130) hlarge
      omega

/-- A representable value plus 32 is zero or at least as large as the smallest normal value (R70). -/
theorem fadd_thirtyTwo_not_subnormal {t : Fp} (ht : Representable t) {neg : Bool} {mag : Nat}
    (h : fadd t (fpNat 32) = .fin neg mag) : mag = 0 ∨ 2 ^ 23 ≤ mag := by
  cases t with
  | nan => cases h
  | inf => cases h
  | fin n a =>
    obtain ⟨bits, -, rfl⟩ := ht
    rcases plusThirtyTwo_apart n bits with hz | hfar
    · rw [fadd_thirtyTwo_of_eq_zero hz] at h
      cases h
      exact .inl rfl
    · rw [fadd_thirtyTwo_of_ne_zero (by omega), ofRatio] at h
      split at h
      case isTrue => cases h
      case isFalse =>
        obtain ⟨-, rfl⟩ := Fp.fin.inj h
        right
        calc 2 ^ 23 = roundUnits (2 ^ 23) 1 := by decide
          _ ≤ roundUnits (plusThirtyTwo n (magOfBits bits)).natAbs 1 := roundUnits_one_mono (by omega)

/-- Settles O14: a subnormal result would stand for the sum of a quotient and 32, and none is that small. -/
theorem cel2ferResultIsNeverSubnormal : Obligations.Cel2ferResultIsNeverSubnormal := by
  intro tc s
  refine ⟨_, resultOf_cel2fer tc s, fun ⟨he, hf⟩ => ?_⟩
  obtain ⟨mag, hunpack, hpos, hlt⟩ := unpack_of_subnormal he hf
  rw [unpack_pack_celsiusToFahrenheit] at hunpack
  have hnormal := fadd_thirtyTwo_not_subnormal (representable_fdiv _ _) hunpack
  omega

end Sys2Proof.Machine
end

section
/-! The switch word and its mirror (41_limit_decoder_mirror.md): the field each GETLIM and GETFMT reads, as a number and
as the bits it depends on (R80 to R82), and the LED word that DISPLIM forms of two limits (R84 to R86). -/

namespace Sys2Proof.Machine

/-! ### The limit fields and the format bits (R80, R81) -/

theorem switchLimit_external_toNat (w : Half) : (switchLimit .external w).toNat = w.toNat % 128 := by
  rw [switchLimit, BitVec.toNat_setWidth, BitVec.toNat_and]
  change (w.toNat &&& (2 ^ 7 - 1)) % 2 ^ 7 = w.toNat % 128
  rw [Nat.and_two_pow_sub_one_eq_mod, Nat.mod_mod]

theorem switchLimit_internal (w : Half) : switchLimit .internal w = switchLimit .external (w >>> 8) := rfl

theorem switchLimit_internal_toNat (w : Half) : (switchLimit .internal w).toNat = w.toNat / 256 % 128 := by
  rw [switchLimit_internal, switchLimit_external_toNat, BitVec.toNat_ushiftRight, Nat.shiftRight_eq_div_pow]

theorem switchFormat_external_iff (w : Half) : switchFormat .external w = true ↔ w.toNat / 128 % 2 = 1 := by
  rw [switchFormat, BitVec.getLsbD, Nat.testBit_eq_decide_div_mod_eq, decide_eq_true_iff]

/-- The format bit of the internal channel is the top bit, so nothing is left above it to reduce. -/
theorem switchFormat_internal_iff (w : Half) : switchFormat .internal w = true ↔ w.toNat / 32768 = 1 := by
  have hlt : w.toNat < 2 ^ 16 := w.isLt
  rw [switchFormat, BitVec.getLsbD, Nat.testBit_eq_decide_div_mod_eq, decide_eq_true_iff]
  omega

/-- Settles O15, by the two limit fields as numbers. -/
theorem getlimReadsTheLimitField : Obligations.GetlimReadsTheLimitField := by
  intro ch w s
  refine ⟨by cases ch <;> rfl, _, switchLimit ch w, rfl, rfl, ?_, ⟨rfl, rfl, rfl, rfl⟩, ⟨rfl, rfl⟩, rfl, rfl⟩
  cases ch with
  | external => exact switchLimit_external_toNat w
  | internal => exact switchLimit_internal_toNat w

/-- Settles O16, by the two format bits as numbers. -/
theorem getfmtReadsTheFormatBit : Obligations.GetfmtReadsTheFormatBit := by
  intro ch w s
  refine ⟨by cases ch <;> rfl, _, switchFormat ch w, rfl, rfl, ?_, ⟨rfl, rfl, rfl, rfl⟩, ⟨rfl, rfl⟩, rfl, rfl⟩
  cases ch with
  | external => exact switchFormat_external_iff w
  | internal => exact switchFormat_internal_iff w

/-! ### The bits a field depends on (R82) -/

/-- The bits of the switch word that hold a channel's limit (R31). -/
def limitBits : Channel → Half
  | .external => 0x007F#16
  | .internal => 0x7F00#16

/-- The bit of the switch word that holds a channel's format (R31). -/
def formatBit : Channel → Half
  | .external => 0x0080#16
  | .internal => 0x8000#16

/-- A channel's limit is read from its own bits alone. -/
theorem switchLimit_and_limitBits (ch : Channel) (w : Half) : switchLimit ch (w &&& limitBits ch) = switchLimit ch w := by
  cases ch with
  | external => rw [switchLimit, switchLimit, limitBits, BitVec.and_assoc, BitVec.and_self]
  | internal =>
    rw [switchLimit, switchLimit, limitBits, BitVec.ushiftRight_and_distrib, BitVec.and_assoc]
    rfl

/-- A channel's format is read from its own bit alone. -/
theorem switchFormat_and_formatBit (ch : Channel) (w : Half) :
    switchFormat ch (w &&& formatBit ch) = switchFormat ch w := by
  cases ch with
  | external | internal => exact BitVec.getLsbD_and.trans (Bool.and_true _)

theorem resultOf_getlim (ch : Channel) (w : Half) (s : State) :
    resultOf (exec (.getlim ch w) s) = some (.limit (switchLimit ch w)) := rfl

theorem resultOf_getfmt (ch : Channel) (w : Half) (s : State) :
    resultOf (exec (.getfmt ch w) s) = some (.format (switchFormat ch w)) := rfl

/-- Words with the same limit bits give the same GETLIM result. -/
theorem resultOf_getlim_congr {ch : Channel} {w w' : Half} (h : w &&& limitBits ch = w' &&& limitBits ch) (s : State) :
    resultOf (exec (.getlim ch w) s) = resultOf (exec (.getlim ch w') s) := by
  rw [resultOf_getlim, resultOf_getlim, ← switchLimit_and_limitBits ch w, h, switchLimit_and_limitBits]

/-- Words with the same format bit give the same GETFMT result. -/
theorem resultOf_getfmt_congr {ch : Channel} {w w' : Half} (h : w &&& formatBit ch = w' &&& formatBit ch) (s : State) :
    resultOf (exec (.getfmt ch w) s) = resultOf (exec (.getfmt ch w') s) := by
  rw [resultOf_getfmt, resultOf_getfmt, ← switchFormat_and_formatBit ch w, h, switchFormat_and_formatBit]

/-- Settles O17: each field is read from its own bits, which no other field's change touches. -/
theorem switchFieldsAreIndependent : Obligations.SwitchFieldsAreIndependent := by
  intro w w' s
  exact ⟨resultOf_getlim .external w s, resultOf_getlim .internal w s, resultOf_getfmt .external w s,
    resultOf_getfmt .internal w s, fun h => resultOf_getlim_congr h s, fun h => resultOf_getlim_congr h s,
    fun h => resultOf_getfmt_congr h s, fun h => resultOf_getfmt_congr h s⟩

/-! ### The mirror word (R84, R85) -/

theorem maskLimit_toNat (x : IntWord) : (maskLimit x).toNat = x.toNat % 128 :=
  (BitVec.toNat_and x 0x7F#32).trans (Nat.and_two_pow_sub_one_eq_mod x.toNat 7)

/-- A negative operand keeps its low seven two's complement bits, so that the sign does not matter to the mask (R84). -/
theorem toInt_emod_limit (x : IntWord) : x.toInt % 128 = (x.toNat % 128 : Nat) := by
  rw [BitVec.toInt_eq_toNat_cond]
  split <;> omega

/-- The two masked limits share no bit, so putting them together is adding them. -/
theorem mirrorWord_toNat (a b : IntWord) : (mirrorWord a b).toNat = b.toNat % 128 * 256 + a.toNat % 128 := by
  have hshift : (maskLimit b <<< 8).toNat = (b.toNat % 128) <<< 8 := by
    rw [BitVec.toNat_shiftLeft, maskLimit_toNat, Nat.shiftLeft_eq]
    omega
  rw [mirrorWord, BitVec.toNat_setWidth, BitVec.toNat_or, hshift, maskLimit_toNat,
    ← Nat.shiftLeft_add_eq_or_of_lt (by omega), Nat.shiftLeft_eq]
  omega

/-- Settles O18: the mirror word is the sum of the masked limits, the second 256-fold, in either reading of the operands. -/
theorem displimFormsTheMirrorWord : Obligations.DisplimFormsTheMirrorWord := by
  intro a b s
  have hint : ((mirrorWord a b).toNat : Int) = b.toInt % 128 * 256 + a.toInt % 128 := by
    rw [toInt_emod_limit, toInt_emod_limit, mirrorWord_toNat]
    rfl
  exact ⟨rfl, _, mirrorWord a b, rfl, rfl, rfl, mirrorWord_toNat a b, hint, rfl, rfl, rfl, ⟨rfl, rfl⟩, rfl, rfl⟩

/-! ### The round trip (R86) -/

/-- With its format bits cleared a word is its two limit fields in place: the mask clears the top bit of each byte. -/
theorem clearedFormatBits_toNat (w : Half) : (w &&& 0x7F7F#16).toNat = w.toNat / 256 % 128 * 256 + w.toNat % 128 := by
  have hhigh : (w.toNat &&& 0x7F7F) / 2 ^ 8 = w.toNat / 2 ^ 8 % 2 ^ 7 := by
    rw [Nat.and_div_two_pow]
    exact Nat.and_two_pow_sub_one_eq_mod _ 7
  have hlow : (w.toNat &&& 0x7F7F) % 2 ^ 8 = w.toNat % 2 ^ 8 % 2 ^ 7 := by
    rw [Nat.and_mod_two_pow]
    exact Nat.and_two_pow_sub_one_eq_mod _ 7
  change w.toNat &&& 0x7F7F = _
  omega

/-- The mirror word of a switch word's two limits is the switch word with its format bits cleared. -/
theorem mirrorWord_switchLimit (w : Half) :
    mirrorWord ((switchLimit .external w).setWidth 32) ((switchLimit .internal w).setWidth 32) = w &&& 0x7F7F#16 := by
  refine BitVec.eq_of_toNat_eq ?_
  rw [mirrorWord_toNat, BitVec.toNat_setWidth, BitVec.toNat_setWidth, switchLimit_external_toNat,
    switchLimit_internal_toNat, clearedFormatBits_toNat]
  omega

/-- Settles O19: the limits come from one word, whose mirror DISPLIM writes and presents. -/
theorem decoderAndMirrorRoundTrip : Obligations.DecoderAndMirrorRoundTrip := by
  intro w s
  have hword := mirrorWord_switchLimit w
  exact ⟨switchLimit .external w, switchLimit .internal w, _, _, _, rfl, rfl, rfl, rfl, rfl,
    congrArg some hword, congrArg (fun word => some (Result.ledWord word)) hword⟩

end Sys2Proof.Machine
end

section
/-! The alert colour (42_alert_color.md): the duty triple that SETRGB writes, read from its base upwards (R100), and the
colour the host chooses for a channel shown in Celsius (R101). -/

namespace Sys2Proof.Machine

/-! ### SETRGB (R100) -/

/-- A duty channel is the one `k` above a triple's base exactly when its number says so (R28). -/
theorem dutyOf_eq_iff {ch : Channel} {k : Fin 3} {i : Fin 8} : dutyOf ch k = i ↔ i.val = dutyBase ch + k.val := by
  rw [Fin.ext_iff, dutyOf_val, eq_comm]

/-- SETRGB's three writes by number: no two of them meet, so their order does not show. -/
theorem readDuty_setrgb_of_base (ch : Channel) (b g r : Binary32) (s : State) (i : Fin 8) :
    readDuty (writeDuty (dutyOf ch 2) r (writeDuty (dutyOf ch 1) g (writeDuty (dutyOf ch 0) b s))) i =
      if i.val = dutyBase ch then some b
      else if i.val = dutyBase ch + 1 then some g
      else if i.val = dutyBase ch + 2 then some r
      else readDuty s i := by
  have hblue : dutyOf ch 0 = i ↔ i.val = dutyBase ch := dutyOf_eq_iff
  have hgreen : dutyOf ch 1 = i ↔ i.val = dutyBase ch + 1 := dutyOf_eq_iff
  have hred : dutyOf ch 2 = i ↔ i.val = dutyBase ch + 2 := dutyOf_eq_iff
  simp only [readDuty_setrgb, hblue, hgreen, hred]
  by_cases hb : i.val = dutyBase ch
  · simp [hb]
  · by_cases hg : i.val = dutyBase ch + 1
    · simp [hg]
    · simp [hb, hg]

theorem greenDuty_eq (color : AlertColor) :
    greenDuty color = if color = .green then 0x3E99999A#32 else 0x00000000#32 := by
  cases color <;> rfl

theorem redDuty_eq (color : AlertColor) : redDuty color = if color = .red then 0x3E99999A#32 else 0x00000000#32 := by
  cases color <;> rfl

/-- Settles O20, by the triple's three channels as numbers. -/
theorem setrgbWritesItsTriple : Obligations.SetrgbWritesItsTriple := by
  intro ch color s
  refine ⟨by cases ch <;> rfl, _, rfl, rfl, fun i => ?_, rfl, rfl, rfl, ⟨rfl, rfl⟩, rfl, rfl⟩
  rw [← greenDuty_eq, ← redDuty_eq]
  exact readDuty_setrgb_of_base ch dutyOff (greenDuty color) (redDuty color) s i

/-! ### The host's colour (R101) -/

/-- For a channel shown in Celsius both values of the open parameter compare the Celsius temperature, and only a NaN asks
for the other one (log 12). An infinity is compared by its sign, as `flt` compares it with a finite limit. -/
theorem hostAlertColor_celsius (limit : Limit) (tc tf : Binary32) :
    hostAlertColor limit false tc tf =
      if (isNaN (unpack tc) && Config.alertOfNaN) || flt (fpNat limit.toNat) (unpack tc) then .red else .green := by
  unfold hostAlertColor
  cases Config.alertCompare with
  | celsius | displayUnit =>
    simp only [selectTemp, Bool.false_eq_true, if_false]
    cases unpack tc with
    | nan => simp [flt, fpNat]
    | inf neg => rfl
    | fin neg mag => rfl

/-- Settles O43: where the temperature is no NaN only the strict comparison is left. -/
theorem hostAlertColorIsStrict : Obligations.HostAlertColorIsStrict := by
  intro limit tc tf hnan
  rw [hostAlertColor_celsius, hnan, Bool.false_and, Bool.false_or]
  cases flt (fpNat limit.toNat) (unpack tc) with
  | false | true => decide

end Sys2Proof.Machine
end

section
/-! The temperature renderer (43_temperature_renderer.md). Every temperature that DISPTEMP renders is that of a
non-negative encoding, whose bits give both integers of R110 as natural numbers that grow with them; the thresholds of
R112, R117 and R119 are then settled at two neighbouring encodings each. -/

namespace Sys2Proof.Machine

/-! ### Selection and clamp (R111) -/

/-- Below zero are -Infinity and the negative finite values that are not -0. -/
theorem flt_zero_iff (v : Fp) : flt v (fpNat 0) = true ↔ v = .inf true ∨ ∃ mag, 0 < mag ∧ v = .fin true mag := by
  cases v with
  | nan => simp [flt]
  | inf neg => simp [flt, fpNat]
  | fin neg mag => cases neg <;> simp [flt, fpNat, signedUnits]

/-- Only an exponent and a fraction of zero stand for zero. -/
theorem magOfBits_eq_zero_iff (bits : Nat) : magOfBits bits = 0 ↔ bits = 0 := by
  constructor
  · intro h
    rw [← bitsOfMag_magOfBits bits, h]
    rfl
  · rintro rfl
    rfl

/-- An encoding with the sign set and the other bits zero is -0.0. -/
theorem eq_negZero_iff {x : Binary32} (hsign : x.getLsbD 31 = true) : x = 0x80000000#32 ↔ x.toNat % 2 ^ 31 = 0 := by
  constructor
  · rintro rfl
    rfl
  · intro h
    rw [← sign_append_rest x, hsign, h]
    rfl

/-- Below zero are the encodings with the sign set that are neither NaNs nor -0.0. -/
theorem flt_unpack_zero_iff (x : Binary32) :
    flt (unpack x) (fpNat 0) = true ↔ isNaN (unpack x) = false ∧ x.getLsbD 31 = true ∧ x ≠ 0x80000000#32 := by
  rw [flt_zero_iff]
  by_cases he : x.extractLsb' 23 8 = 0xFF#8
  · by_cases hf : x.extractLsb' 0 23 = 0#23
    · have hne : x ≠ 0x80000000#32 := by
        rintro rfl
        exact absurd he (by decide)
      simp [unpack_infinity he hf, hne]
    · simp [unpack_nan he hf]
  · rw [unpack_finite he]
    cases hsign : x.getLsbD 31 with
    | false => simp
    | true =>
      rw [Ne, eq_negZero_iff hsign, ← magOfBits_eq_zero_iff]
      simp [Nat.pos_iff_ne_zero]

/-- The clamp on encodings (R111). -/
theorem clampTemp_eq (x : Binary32) :
    clampTemp x =
      if isNaN (unpack x) = false ∧ x.getLsbD 31 = true ∧ x ≠ 0x80000000#32 then 0x00000000#32 else x := by
  simp only [clampTemp, flt_unpack_zero_iff]

theorem clampTemp_of_nan {x : Binary32} (hnan : isNaN (unpack x) = true) : clampTemp x = x := by
  rw [clampTemp_eq, if_neg fun ⟨hnot, _⟩ => absurd (hnan.symm.trans hnot) (by decide)]

theorem clampTemp_of_sign_clear {x : Binary32} (hsign : x.getLsbD 31 = false) : clampTemp x = x := by
  rw [clampTemp_eq, if_neg fun ⟨_, hset, _⟩ => absurd (hsign.symm.trans hset) (by decide)]

/-- A temperature with the sign set becomes a zero, of either sign. -/
theorem clampTemp_of_sign {x : Binary32} (hnan : isNaN (unpack x) = false) (hsign : x.getLsbD 31 = true) :
    clampTemp x = 0x00000000#32 ∨ clampTemp x = 0x80000000#32 := by
  by_cases hx : x = 0x80000000#32
  · exact .inr (by subst hx; decide)
  · exact .inl (by rw [clampTemp_eq, if_pos ⟨hnan, hsign, hx⟩])

/-- The clamp leaves every temperature that DISPTEMP faults on as it is (R162). -/
theorem clampTemp_of_outside {x : Binary32} (h : OutsideRenderDomain x) : clampTemp x = x := by
  rcases h with hnan | ⟨hsign, -⟩
  · exact clampTemp_of_nan hnan
  · exact clampTemp_of_sign_clear hsign

/-! ### What of a temperature is rendered -/

/-- All that R110 computes from the temperature is the same for the two values. -/
structure RenderAlike (t u : Fp) : Prop where
  scaled : scaledTenths t = scaledTenths u
  hundred : fge t (fpNat 100) = fge u (fpNat 100)
  half : fadd t fpHalf = fadd u fpHalf

theorem RenderAlike.refl (t : Fp) : RenderAlike t t := ⟨rfl, rfl, rfl⟩

theorem RenderAlike.renderTemp_eq {t u : Fp} (h : RenderAlike t u) : renderTemp t = renderTemp u := by
  unfold renderTemp outsideDomain
  rw [h.scaled, h.hundred, h.half]

/-- The zeros of both signs render alike (R111). -/
theorem renderAlike_zeros : RenderAlike (.fin true 0) (.fin false 0) := ⟨by decide, by decide, by decide⟩

/-- The clamped temperature as x[30:0] of a non-negative encoding, every zero being +0.0. -/
def clampedBits (x : Binary32) : Nat := if x.getLsbD 31 = true then 0 else x.toNat

theorem clampedBits_of_sign {x : Binary32} (hsign : x.getLsbD 31 = true) : clampedBits x = 0 := if_pos hsign

theorem clampedBits_of_sign_clear {x : Binary32} (hsign : x.getLsbD 31 = false) : clampedBits x = x.toNat := by
  rw [clampedBits, hsign]
  exact if_neg Bool.false_ne_true

/-- A threshold above zero is one on the clamped bits. -/
theorem atLeastBits_iff {x : Binary32} (hnan : isNaN (unpack x) = false) {bits : Nat} (hpos : 0 < bits) :
    AtLeastBits bits x ↔ bits ≤ clampedBits x := by
  cases hsign : x.getLsbD 31 with
  | true =>
    rw [clampedBits_of_sign hsign]
    exact iff_of_false (fun ⟨_, hclear, _⟩ => absurd (hsign.symm.trans hclear) (by decide)) (by omega)
  | false =>
    rw [clampedBits_of_sign_clear hsign]
    exact ⟨fun ⟨_, _, h⟩ => h, fun h => ⟨hnan, hsign, h⟩⟩

/-- The domain of R113 on the clamped bits. -/
theorem not_outsideRenderDomain_iff (x : Binary32) :
    ¬ OutsideRenderDomain x ↔ isNaN (unpack x) = false ∧ clampedBits x ≤ 0x4D4CCCCC := by
  cases hsign : x.getLsbD 31 with
  | true => simp [OutsideRenderDomain, hsign, clampedBits_of_sign hsign]
  | false =>
    simp only [OutsideRenderDomain, hsign, clampedBits_of_sign_clear hsign, not_or, Bool.not_eq_true, true_and, Nat.not_le]
    exact and_congr_right fun _ => Nat.lt_succ_iff

/-- A clamped temperature that is finite renders as the value of its clamped bits. -/
theorem renderAlike_clampTemp {x : Binary32} (hnan : isNaN (unpack x) = false) (hfin : clampedBits x < 0x7F800000) :
    RenderAlike (unpack (clampTemp x)) (.fin false (magOfBits (clampedBits x))) := by
  cases hsign : x.getLsbD 31 with
  | true =>
    rw [clampedBits_of_sign hsign]
    rcases clampTemp_of_sign hnan hsign with h | h
    · rw [h]
      exact .refl _
    · rw [h]
      exact renderAlike_zeros
  | false =>
    rw [clampedBits_of_sign_clear hsign] at hfin ⊢
    have hmod : x.toNat % 2 ^ 31 = x.toNat := Nat.mod_eq_of_lt (by omega)
    rw [clampTemp_of_sign_clear hsign, unpack_of_bits_lt (by rwa [hmod]), hsign, hmod]
    exact .refl _

/-- Only the rendering of the selected temperature shows (R111). -/
theorem exec_disptemp_congr (ch : Channel) {tc tf tc' tf' : Binary32} {useF : Bool} {r : Rendering} (s : State)
    (h : renderTemp (unpack (clampTemp (selectTemp useF tc tf))) = some r)
    (h' : renderTemp (unpack (clampTemp (selectTemp useF tc' tf'))) = some r) :
    exec (.disptemp ch tc tf useF) s = exec (.disptemp ch tc' tf' useF) s :=
  (execDisptemp_of_some s h).trans (execDisptemp_of_some s h').symm

/-- Settles O23: the clamp on encodings, and the two zeros rendering alike. -/
theorem clampReplacesNegativeTemperatures : Obligations.ClampReplacesNegativeTemperatures := by
  have hneg : renderTemp (unpack (clampTemp 0x80000000#32)) = some { tenthsScaled := 0, whole := 0 } := by decide
  have hpos : renderTemp (unpack (clampTemp 0x00000000#32)) = some { tenthsScaled := 0, whole := 0 } := by decide
  exact ⟨fun ch tc tf x s => ⟨rfl, rfl⟩, clampTemp_eq,
    fun ch y s => ⟨exec_disptemp_congr ch s hneg hpos, exec_disptemp_congr ch s hneg hpos⟩,
    fun x hnan => (renderTemp_clampTemp_eq_none x).2 (.inl hnan)⟩

/-! ### The tenths (R112) -/

/-- The tenths of a non-negative encoding: the whole part of R110's `s`. -/
def tenthsOf (bits : Nat) : Nat := tenthsUnits (magOfBits bits) / unitsPerOne

theorem tenthsOf_mono {b c : Nat} (h : b ≤ c) : tenthsOf b ≤ tenthsOf c :=
  Nat.div_le_div_right (tenthsUnits_mono (magOfBits_mono h))

/-- The tenths reach `n` exactly from `first` on, where they have reached it there and not one encoding below. -/
theorem le_tenthsOf_iff {n first : Nat} (hbelow : tenthsOf (first - 1) < n) (hfirst : n ≤ tenthsOf first) (bits : Nat) :
    n ≤ tenthsOf bits ↔ first ≤ bits := by
  constructor
  · intro h
    by_contra hlt
    exact absurd (h.trans (tenthsOf_mono (show bits ≤ first - 1 by omega))) (by omega)
  · exact fun h => hfirst.trans (tenthsOf_mono h)

/-! The four thresholds of R112. -/

theorem one_le_tenthsOf_iff (bits : Nat) : 1 ≤ tenthsOf bits ↔ 0x3D4CCCCC ≤ bits :=
  le_tenthsOf_iff (by decide) (by decide) bits

theorem ten_le_tenthsOf_iff (bits : Nat) : 10 ≤ tenthsOf bits ↔ 0x3F733333 ≤ bits :=
  le_tenthsOf_iff (by decide) (by decide) bits

theorem hundred_le_tenthsOf_iff (bits : Nat) : 100 ≤ tenthsOf bits ↔ 0x411F3333 ≤ bits :=
  le_tenthsOf_iff (by decide) (by decide) bits

theorem thousand_le_tenthsOf_iff (bits : Nat) : 1000 ≤ tenthsOf bits ↔ 0x42C7E666 ≤ bits :=
  le_tenthsOf_iff (by decide) (by decide) bits

/-- A non-negative finite value is a whole number of ones and the rest. -/
theorem floorInt_nonneg (mag : Nat) : floorInt (.fin false mag) = some ((mag / unitsPerOne : Nat) : Int) := by
  simp [signedUnits]

/-- Where `s` is finite, its integer conversion gives the tenths. -/
theorem eq_tenthsOf_of_floorInt {bits : Nat} {n : Int}
    (h : floorInt (scaledTenths (.fin false (magOfBits bits))) = some n) : n = tenthsOf bits := by
  rw [scaledTenths_fin] at h
  split_ifs at h
  · exact absurd h.symm (Option.some_ne_none n)
  · exact absurd h.symm (Option.some_ne_none n)
  · rw [floorInt_nonneg] at h
    exact (Option.some.inj h).symm

/-- A temperature that is no NaN is finite once it is clamped, unless it is +Infinity. -/
theorem clampedBits_lt_or_posInf {x : Binary32} (hnan : isNaN (unpack x) = false) :
    clampedBits x < 0x7F800000 ∨ unpack (clampTemp x) = .inf false := by
  cases hsign : x.getLsbD 31 with
  | true => exact .inl (by rw [clampedBits_of_sign hsign]; decide)
  | false =>
    by_cases he : x.extractLsb' 23 8 = 0xFF#8
    · by_cases hf : x.extractLsb' 0 23 = 0#23
      · exact .inr (by rw [clampTemp_of_sign_clear hsign, unpack_infinity he hf, hsign])
      · rw [unpack_nan he hf] at hnan
        exact absurd hnan (by decide)
    · refine .inl ?_
      rw [clampedBits_of_sign_clear hsign]
      have hlt := toNat_lt_of_sign_clear hsign
      have hexp : (x.extractLsb' 23 8).toNat ≠ 0xFF := fun h => he (BitVec.eq_of_toNat_eq h)
      rw [exponent_toNat, Nat.mod_eq_of_lt hlt] at hexp
      omega

/-- Where the integer conversion of R112 has a meaning, the temperature is no NaN and its tenths are those of its clamped
bits. -/
theorem tenths_of_floorInt {x : Binary32} {n : Int} (h : floorInt (scaledTenths (unpack (clampTemp x))) = some n) :
    isNaN (unpack x) = false ∧ n = tenthsOf (clampedBits x) := by
  cases hnan : isNaN (unpack x) with
  | true =>
    have hnone : floorInt (scaledTenths .nan) = none := by decide
    rw [clampTemp_of_nan hnan, eq_nan_of_isNaN hnan, hnone] at h
    exact absurd h.symm (Option.some_ne_none n)
  | false =>
    refine ⟨rfl, ?_⟩
    rcases clampedBits_lt_or_posInf hnan with hfin | hinf
    · rw [(renderAlike_clampTemp hnan hfin).scaled] at h
      exact eq_tenthsOf_of_floorInt h
    · have hnone : floorInt (scaledTenths (.inf false)) = none := by decide
      rw [hinf, hnone] at h
      exact absurd h.symm (Option.some_ne_none n)

/-- Settles O24, by the four thresholds on the clamped bits. -/
theorem tenthsRoundingThresholds : Obligations.TenthsRoundingThresholds := by
  refine ⟨fun x n h => ?_, by decide, by decide⟩
  obtain ⟨hnan, rfl⟩ := tenths_of_floorInt h
  rw [atLeastBits_iff hnan (by decide), atLeastBits_iff hnan (by decide), atLeastBits_iff hnan (by decide),
    atLeastBits_iff hnan (by decide), ← one_le_tenthsOf_iff, ← ten_le_tenthsOf_iff, ← hundred_le_tenthsOf_iff,
    ← thousand_le_tenthsOf_iff]
  norm_cast

/-! ### The whole part (R115, R117) -/

/-- The sum with a half of R115's upper branch, in whole ones. -/
def roundedOf (bits : Nat) : Nat := roundUnits (magOfBits bits + 2 ^ 148) 1 / unitsPerOne

theorem roundedOf_mono {b c : Nat} (h : b ≤ c) : roundedOf b ≤ roundedOf c :=
  Nat.div_le_div_right (roundUnits_one_mono (Nat.add_le_add_right (magOfBits_mono h) _))

/-- The whole part of a non-negative encoding: R115's two branches. -/
def wholeOf (bits : Nat) : Nat := if 0x42C80000 ≤ bits then roundedOf bits else tenthsOf bits / 10

/-- The two integers of a non-negative encoding. -/
def renderingOf (bits : Nat) : Rendering := { tenthsScaled := tenthsOf bits, whole := wholeOf bits }

@[simp] theorem renderingOf_tenthsScaled (bits : Nat) : (renderingOf bits).tenthsScaled = tenthsOf bits := rfl

@[simp] theorem renderingOf_whole (bits : Nat) : (renderingOf bits).whole = wholeOf bits := rfl

/-- The branch of R115 is taken exactly from 100.0, 0x42C80000, on. -/
theorem fge_hundred (bits : Nat) :
    fge (.fin false (magOfBits bits)) (fpNat 100) = true ↔ 0x42C80000 ≤ bits := by
  have hunits : fge (.fin false (magOfBits bits)) (fpNat 100) = true ↔ 100 * unitsPerOne ≤ magOfBits bits := by
    simp only [fge, flt, fpNat, signedUnits, Bool.not_eq_true', decide_eq_false_iff_not, Bool.false_eq_true, if_false]
    omega
  rw [hunits]
  constructor
  · intro h
    by_contra hlt
    have hbelow : magOfBits 0x42C7FFFF < 100 * unitsPerOne := by decide
    exact absurd (h.trans (magOfBits_mono (show bits ≤ 0x42C7FFFF by omega))) (by omega)
  · intro h
    have hfirst : 100 * unitsPerOne ≤ magOfBits 0x42C80000 := by decide
    exact hfirst.trans (magOfBits_mono h)

/-- The tenths of a rendering are the integer conversion of `s` (R112). -/
theorem tenthsScaled_of_renderTemp {t : Fp} {r : Rendering} (h : renderTemp t = some r) :
    floorInt (scaledTenths t) = some r.tenthsScaled := by
  obtain ⟨-, htenths, -⟩ := renderTemp_eq_some.1 h
  exact htenths

/-- At or above 100 the whole part is the rounded temperature (R115). -/
theorem whole_of_hundred {t : Fp} {r : Rendering} (h : renderTemp t = some r) (hbranch : fge t (fpNat 100) = true) :
    floorInt (fadd t fpHalf) = some r.whole := by
  obtain ⟨-, -, hwhole⟩ := renderTemp_eq_some.1 h
  rwa [if_pos hbranch] at hwhole

/-- Below 100 the whole part is that of the tenths (R115). -/
theorem whole_of_not_hundred {t : Fp} {r : Rendering} (h : renderTemp t = some r)
    (hbranch : ¬ fge t (fpNat 100) = true) : r.whole = r.tenthsScaled / 10 := by
  obtain ⟨-, -, hwhole⟩ := renderTemp_eq_some.1 h
  rwa [if_neg hbranch] at hwhole

/-- Where the sum with a half is finite, its integer conversion is the rounded temperature. -/
theorem eq_roundedOf_of_floorInt {bits : Nat} {n : Int}
    (h : floorInt (fadd (.fin false (magOfBits bits)) fpHalf) = some n) : n = roundedOf bits := by
  rw [fadd_half, ofRatio] at h
  split_ifs at h
  · exact absurd h.symm (Option.some_ne_none n)
  · rw [floorInt_nonneg] at h
    exact (Option.some.inj h).symm

/-- Inside the domain a non-negative encoding renders as its tenths and its whole part. -/
theorem renderTemp_magOfBits {bits : Nat} (h : bits ≤ 0x4D4CCCCC) :
    renderTemp (.fin false (magOfBits bits)) = some (renderingOf bits) := by
  obtain ⟨r, hr⟩ := Option.ne_none_iff_exists'.1 (mt (renderTemp_magOfBits_eq_none bits).1 (by omega))
  have htenths : r.tenthsScaled = tenthsOf bits := eq_tenthsOf_of_floorInt (tenthsScaled_of_renderTemp hr)
  have hwhole : r.whole = wholeOf bits := by
    by_cases hbranch : fge (.fin false (magOfBits bits)) (fpNat 100) = true
    · rw [wholeOf, if_pos ((fge_hundred bits).1 hbranch)]
      exact eq_roundedOf_of_floorInt (whole_of_hundred hr hbranch)
    · rw [wholeOf, if_neg (mt (fge_hundred bits).2 hbranch), whole_of_not_hundred hr hbranch, htenths]
      rfl
  rw [hr, renderingOf, ← htenths, ← hwhole]

/-- Inside the domain DISPTEMP renders the clamped bits. -/
theorem renderTemp_clampTemp_of_inside {x : Binary32} (h : ¬ OutsideRenderDomain x) :
    renderTemp (unpack (clampTemp x)) = some (renderingOf (clampedBits x)) := by
  obtain ⟨hnan, hle⟩ := (not_outsideRenderDomain_iff x).1 h
  rw [(renderAlike_clampTemp hnan (by omega)).renderTemp_eq, renderTemp_magOfBits hle]

/-- What has a rendering is inside the domain, and its rendering is that of its clamped bits. -/
theorem eq_renderingOf_of_renderTemp {x : Binary32} {r : Rendering} (h : renderTemp (unpack (clampTemp x)) = some r) :
    ¬ OutsideRenderDomain x ∧ r = renderingOf (clampedBits x) := by
  have hin : ¬ OutsideRenderDomain x := fun hout =>
    Option.some_ne_none r (h.symm.trans ((renderTemp_clampTemp_eq_none x).2 hout))
  exact ⟨hin, Option.some.inj (h.symm.trans (renderTemp_clampTemp_of_inside hin))⟩

/-- Both integers of a rendering are natural numbers (R114). -/
theorem nonneg_of_renderTemp {x : Binary32} {r : Rendering} (h : renderTemp (unpack (clampTemp x)) = some r) :
    0 ≤ r.tenthsScaled ∧ 0 ≤ r.whole := by
  obtain ⟨-, rfl⟩ := eq_renderingOf_of_renderTemp h
  exact ⟨Int.natCast_nonneg _, Int.natCast_nonneg _⟩

/-- The branch of R115 on the selected temperature. -/
theorem fge_clampTemp_hundred {x : Binary32} (h : ¬ OutsideRenderDomain x) :
    fge (unpack (clampTemp x)) (fpNat 100) = true ↔ 0x42C80000 ≤ clampedBits x := by
  obtain ⟨hnan, hle⟩ := (not_outsideRenderDomain_iff x).1 h
  rw [(renderAlike_clampTemp hnan (by omega)).hundred, fge_hundred]

theorem wholeOf_of_hundred {bits : Nat} (h : 0x42C80000 ≤ bits) : wholeOf bits = roundedOf bits := if_pos h

theorem wholeOf_of_below_hundred {bits : Nat} (h : ¬ 0x42C80000 ≤ bits) : wholeOf bits = tenthsOf bits / 10 := if_neg h

/-- The upper branch gives at least 100, its value at 100.0 (R117). -/
theorem hundred_le_wholeOf_of_hundred {bits : Nat} (h : 0x42C80000 ≤ bits) : 100 ≤ wholeOf bits := by
  have hfirst : 100 ≤ roundedOf 0x42C80000 := by decide
  rw [wholeOf_of_hundred h]
  exact hfirst.trans (roundedOf_mono h)

/-- Below 100.0 the tenths are at most 1000, their value just below it (R117). -/
theorem tenthsOf_le_thousand {bits : Nat} (h : ¬ 0x42C80000 ≤ bits) : tenthsOf bits ≤ 1000 := by
  have hlast : tenthsOf 0x42C7FFFF ≤ 1000 := by decide
  exact (tenthsOf_mono (show bits ≤ 0x42C7FFFF by omega)).trans hlast

/-- The over-hundred threshold (R117). -/
theorem hundred_le_wholeOf_iff (bits : Nat) : 100 ≤ wholeOf bits ↔ 0x42C7E666 ≤ bits := by
  by_cases hbranch : 0x42C80000 ≤ bits
  · exact iff_of_true (hundred_le_wholeOf_of_hundred hbranch) (by omega)
  · have htenths := thousand_le_tenthsOf_iff bits
    rw [wholeOf_of_below_hundred hbranch]
    omega

/-- The threshold of the tens digit (R119). -/
theorem ten_le_wholeOf_iff (bits : Nat) : 10 ≤ wholeOf bits ↔ 0x411F3333 ≤ bits := by
  by_cases hbranch : 0x42C80000 ≤ bits
  · have hwhole := hundred_le_wholeOf_of_hundred hbranch
    exact iff_of_true (by omega) (by omega)
  · have htenths := hundred_le_tenthsOf_iff bits
    rw [wholeOf_of_below_hundred hbranch]
    omega

/-- Settles O26: the branches are those of `renderTemp`, over tenths that are not negative. -/
theorem dualRoundingKeepsTwoBranches : Obligations.DualRoundingKeepsTwoBranches := by
  refine ⟨fun x r h => ⟨whole_of_hundred h, fun hbelow => ?_⟩, by decide, by decide, by decide⟩
  obtain ⟨hnonneg, -⟩ := nonneg_of_renderTemp h
  rw [Int.tdiv_eq_ediv_of_nonneg hnonneg]
  exact whole_of_not_hundred h (by rw [hbelow]; decide)

/-! ### Non-negative integers and digits (R114) -/

/-- `s` is at least its value at zero, a half (R114). -/
theorem fge_scaledTenths_half (mag : Nat) : fge (scaledTenths (.fin false mag)) fpHalf = true := by
  have hzero : tenthsUnits 0 = 2 ^ 148 := by decide
  have hmono := tenthsUnits_mono (Nat.zero_le mag)
  rw [scaledTenths_fin]
  split_ifs
  · decide
  · decide
  · rw [hzero] at hmono
    simp only [fge, flt, fpHalf, signedUnits, Bool.not_eq_true', decide_eq_false_iff_not, Bool.false_eq_true, if_false]
    omega

/-- Truncating and flooring division agree on a number that is not negative, and its last digit is one (R114). -/
theorem division_of_nonneg {n : Int} (h : 0 ≤ n) :
    (∀ d, n.tdiv d = n / d) ∧ n.tmod 10 = n % 10 ∧ 0 ≤ n % 10 ∧ n % 10 ≤ 9 :=
  ⟨fun _ => Int.tdiv_eq_ediv_of_nonneg h, Int.tmod_eq_emod_of_nonneg h, by omega, by omega⟩

/-- Settles O25: `s` is no less than at zero, and both integers are natural numbers. -/
theorem renderedIntegersAreNonNegative : Obligations.RenderedIntegersAreNonNegative := by
  intro x r h
  obtain ⟨hin, -⟩ := eq_renderingOf_of_renderTemp h
  obtain ⟨hnan, hle⟩ := (not_outsideRenderDomain_iff x).1 hin
  obtain ⟨htenths, hwhole⟩ := nonneg_of_renderTemp h
  refine ⟨?_, htenths, hwhole, fun d _ => (division_of_nonneg hwhole).1 d, (division_of_nonneg htenths).1 10, ?_⟩
  · rw [← scaledTenths, (renderAlike_clampTemp hnan (by omega)).scaled]
    exact fge_scaledTenths_half _
  · have hdigit : ∀ {n : Int}, 0 ≤ n → n.tmod 10 = n % 10 ∧ 0 ≤ n % 10 ∧ n % 10 ≤ 9 :=
      fun hn => (division_of_nonneg hn).2
    simp only [List.forall_mem_cons]
    exact ⟨hdigit (by omega), hdigit (by omega), hdigit hwhole, hdigit htenths, nofun⟩

/-! ### DISPTEMP (R113, R116 to R121) -/

/-- Inside its domain DISPTEMP writes the rendering of the clamped bits and presents its flag. -/
theorem exec_disptemp_inside (ch : Channel) {tc tf : Binary32} {useF : Bool}
    (h : ¬ OutsideRenderDomain (selectTemp useF tc tf)) (s : State) :
    exec (.disptemp ch tc tf useF) s =
      .next (present (some (.hundredPlus (hundredPlus (wholeOf (clampedBits (selectTemp useF tc tf))))))
        (writeHalf ch useF (renderingOf (clampedBits (selectTemp useF tc tf))) s)) :=
  execDisptemp_of_some s (renderTemp_clampTemp_of_inside h)

/-- Settles O21, by what DISPTEMP does on either side of its domain. -/
theorem disptempFaultsExactlyOutsideItsDomain : Obligations.DisptempFaultsExactlyOutsideItsDomain := by
  intro ch tc tf useF s
  constructor
  · intro hout
    refine ⟨_, _, exec_disptemp_outside ch hout s, rfl, fun hclear => ?_, rfl, ⟨rfl, rfl, rfl, rfl⟩, rfl, rfl, rfl⟩
    rw [hclear, recordAfter_none, clampTemp_of_outside hout]
  · intro hin
    exact ⟨_, _, exec_disptemp_inside ch hin s, rfl, rfl, rfl⟩

theorem hundredPlus_natCast (n : Nat) : hundredPlus (n : Int) = decide (100 ≤ n) := by
  simp only [hundredPlus, Nat.ofNat_le_cast]

theorem digitPattern_natCast (n : Nat) : digitPattern (n : Int) = BitVec.ofNat 8 n := BitVec.ofInt_natCast 8 n

/-! The three digit slots over natural numbers (R118, R119). -/

theorem highSlot_renderingOf (bits : Nat) :
    highSlot (renderingOf bits) =
      if 100 ≤ wholeOf bits then BitVec.ofNat 8 (wholeOf bits / 100 % 10)
      else if 10 ≤ wholeOf bits then BitVec.ofNat 8 (wholeOf bits / 10 % 10) else 0xFF#8 := by
  simp only [highSlot, renderingOf_whole, hundredPlus_natCast, decide_eq_true_eq, ← digitPattern_natCast,
    Nat.ofNat_le_cast, blankPattern, Int.natCast_ediv, Int.natCast_emod, Nat.cast_ofNat]

theorem midSlot_renderingOf (bits : Nat) :
    midSlot (renderingOf bits) =
      if 100 ≤ wholeOf bits then BitVec.ofNat 8 (wholeOf bits / 10 % 10) else BitVec.ofNat 8 (wholeOf bits % 10) := by
  simp only [midSlot, renderingOf_whole, hundredPlus_natCast, decide_eq_true_eq, ← digitPattern_natCast,
    Int.natCast_ediv, Int.natCast_emod, Nat.cast_ofNat]

theorem lowSlot_renderingOf (bits : Nat) :
    lowSlot (renderingOf bits) =
      if 100 ≤ wholeOf bits then BitVec.ofNat 8 (wholeOf bits % 10) else BitVec.ofNat 8 (tenthsOf bits % 10) := by
  simp only [lowSlot, renderingOf_whole, renderingOf_tenthsScaled, hundredPlus_natCast, decide_eq_true_eq,
    ← digitPattern_natCast, Int.natCast_emod, Nat.cast_ofNat]

/-- A slot is the one `k` above a half's base exactly when its number says so (R25). -/
theorem slotOf_eq_iff {ch : Channel} {k : Fin 4} {i : Fin 8} : slotOf ch k = i ↔ i.val = slotBase ch + k.val := by
  rw [Fin.ext_iff, slotOf_val, eq_comm]

/-- The half that a render writes by number, from the top slot down: no two slots meet, so their order does not show. -/
theorem readDigit_writeHalf_of_base (ch : Channel) (useF : Bool) (r : Rendering) (s : State) (i : Fin 8) :
    readDigit (writeHalf ch useF r s) i =
      if i.val = slotBase ch + 3 then some (highSlot r)
      else if i.val = slotBase ch + 2 then some (midSlot r)
      else if i.val = slotBase ch + 1 then some (lowSlot r)
      else if i.val = slotBase ch then some (unitGlyph useF)
      else readDigit s i := by
  have hglyph : slotOf ch 0 = i ↔ i.val = slotBase ch := slotOf_eq_iff
  have hlow : slotOf ch 1 = i ↔ i.val = slotBase ch + 1 := slotOf_eq_iff
  have hmid : slotOf ch 2 = i ↔ i.val = slotBase ch + 2 := slotOf_eq_iff
  have hhigh : slotOf ch 3 = i ↔ i.val = slotBase ch + 3 := slotOf_eq_iff
  simp only [readDigit_writeHalf, hglyph, hlow, hmid, hhigh]
  by_cases h3 : i.val = slotBase ch + 3
  · simp [h3]
  · by_cases h2 : i.val = slotBase ch + 2
    · simp [h2]
    · by_cases h1 : i.val = slotBase ch + 1
      · simp [h1]
      · simp [h1, h2, h3]

/-- Settles O22, by the natural numbers that are rendered. -/
theorem disptempRendersTheSelectedTemperature : Obligations.DisptempRendersTheSelectedTemperature := by
  intro ch tc tf useF s hin
  have hr := renderTemp_clampTemp_of_inside hin
  refine ⟨tenthsOf (clampedBits (selectTemp useF tc tf)), wholeOf (clampedBits (selectTemp useF tc tf)), _,
    ?_, ?_, exec_disptemp_inside ch hin s, ?_, fun i => ?_, rfl, rfl, rfl, ⟨rfl, rfl⟩, rfl, rfl⟩
  · rw [← scaledTenths, ← renderingOf_tenthsScaled]
    exact tenthsScaled_of_renderTemp hr
  · split_ifs with hbranch
    · rw [← renderingOf_whole]
      exact whole_of_hundred hr hbranch
    · exact wholeOf_of_below_hundred (mt (fge_clampTemp_hundred hin).2 hbranch)
  · rw [present_result, hundredPlus_natCast]
  · rw [readDigit_congr (present_digit _ _), readDigit_writeHalf_of_base, highSlot_renderingOf, midSlot_renderingOf,
      lowSlot_renderingOf, unitGlyph]

/-- Settles O27, by the thresholds of the whole part on the clamped bits. -/
theorem overHundredFlagThreshold : Obligations.OverHundredFlagThreshold := by
  intro ch tc tf useF s hin
  obtain ⟨hnan, -⟩ := (not_outsideRenderDomain_iff _).1 hin
  have hbranch := fge_clampTemp_hundred hin
  refine ⟨_, _, exec_disptemp_inside ch hin s, renderTemp_clampTemp_of_inside hin, rfl, ?_, ?_, fun h => ?_, fun h => ?_⟩
  · rw [atLeastBits_iff hnan (by decide), renderingOf_whole, Nat.ofNat_le_cast, hundred_le_wholeOf_iff]
  · rw [atLeastBits_iff hnan (by decide), hbranch]
  · exact Int.ofNat_le.2 (hundred_le_wholeOf_of_hundred (hbranch.1 h))
  · have hbelow := mt hbranch.2 (by rw [h]; decide)
    have htenths := tenthsOf_le_thousand hbelow
    rw [renderingOf_whole, renderingOf_tenthsScaled, wholeOf_of_below_hundred hbelow]
    omega

/-- A decimal digit is not BLANK. -/
theorem ofNat_digit_ne_blank (n : Nat) : BitVec.ofNat 8 (n % 10) ≠ 0xFF#8 := by
  have := Nat.mod_lt n (show 0 < 10 by decide)
  bv_omega

/-- The top slot is BLANK exactly where there is no tens digit (R119). -/
theorem highSlot_eq_blank_iff (bits : Nat) : highSlot (renderingOf bits) = 0xFF#8 ↔ ¬ 10 ≤ wholeOf bits := by
  rw [highSlot_renderingOf]
  split_ifs with hhundred hten
  · exact iff_of_false (ofNat_digit_ne_blank _) (by omega)
  · exact iff_of_false (ofNat_digit_ne_blank _) (by omega)
  · exact iff_of_true rfl hten

/-- What a render leaves in its three digit slots. -/
theorem readDigit_rendered (ch : Channel) (useF : Bool) (r : Rendering) (v : Option Result) (s : State) :
    readDigit (present v (writeHalf ch useF r s)) (slotOf ch 3) = some (highSlot r) ∧
    readDigit (present v (writeHalf ch useF r s)) (slotOf ch 2) = some (midSlot r) ∧
    readDigit (present v (writeHalf ch useF r s)) (slotOf ch 1) = some (lowSlot r) := by
  simp [readDigit_congr (present_digit v _), readDigit_writeHalf, slotOf_inj]

/-- Settles O28, by the thresholds of the whole part and the digit slots below 100. -/
theorem underHundredLayout : Obligations.UnderHundredLayout := by
  refine ⟨fun ch tc tf useF s hin => ?_, fun ch y s => ?_⟩
  · obtain ⟨hnan, -⟩ := (not_outsideRenderDomain_iff _).1 hin
    obtain ⟨hhigh, hmid, hlow⟩ := readDigit_rendered ch useF (renderingOf (clampedBits (selectTemp useF tc tf)))
      (some (.hundredPlus (hundredPlus (wholeOf (clampedBits (selectTemp useF tc tf)))))) s
    refine ⟨_, _, exec_disptemp_inside ch hin s, renderTemp_clampTemp_of_inside hin, ?_, fun hwhole => ?_⟩
    · rw [hhigh, Option.some.injEq, highSlot_eq_blank_iff, ten_le_wholeOf_iff, atLeastBits_iff hnan (by decide)]
    · have hbelow : ¬ 100 ≤ wholeOf (clampedBits (selectTemp useF tc tf)) := by
        rw [renderingOf_whole] at hwhole
        omega
      rw [hhigh, hmid, hlow, highSlot_renderingOf, midSlot_renderingOf, lowSlot_renderingOf, if_neg hbelow,
        if_neg hbelow, if_neg hbelow, renderingOf_whole, renderingOf_tenthsScaled, Int.toNat_natCast, Int.toNat_natCast]
      simp only [Nat.ofNat_le_cast, and_self]
  · have hr : renderTemp (unpack (clampTemp 0x411F3333#32)) = some { tenthsScaled := 100, whole := 10 } := by decide
    exact ⟨_, execDisptemp_of_some s hr, readDigit_rendered ch false _ _ s⟩

end Sys2Proof.Machine
end

section
/-! The decimal-point placer (44_decimal_point.md). In each half the table of R140 sets the bit of one slot, the ones
digit's slot in the layout that the half's own flag selects; and a render puts the ones digit of its whole part there. -/

namespace Sys2Proof.Machine

/-! ### The table (R140) -/

/-- The slot of a half that holds the ones digit, in the layout that the half's over-hundred flag selects (R25). -/
def onesSlot (overHundred : Bool) : Fin 4 := if overHundred then 1 else 2

/-- The flag of a channel among DISPDP's operands (R140). -/
def flagOf (intOH extOH : Bool) : Channel → Bool
  | .internal => intOH
  | .external => extOH

/-- What DISPDP does (R140). -/
theorem exec_dispdp (intOH extOH : Bool) (s : State) :
    exec (.dispdp intOH extOH) s =
      .next (present (some (.dpMask (decimalPointMask intOH extOH))) (writeDpmask (decimalPointMask intOH extOH) s)) :=
  rfl

/-- The mask's bits in a half, row by row of the table: the ones digit's slot alone (R140, R142). -/
theorem getLsbD_decimalPointMask (ch : Channel) (intOH extOH : Bool) (j : Fin 4) :
    (decimalPointMask intOH extOH).getLsbD (slotOf ch j).val = true ↔ j = onesSlot (flagOf intOH extOH ch) := by
  revert j
  match ch, intOH, extOH with
  | .internal, true, true | .internal, true, false | .internal, false, true | .internal, false, false => decide
  | .external, true, true | .external, true, false | .external, false, true | .external, false, false => decide

/-- Exactly one bit of a half is set (R140). -/
theorem existsUnique_getLsbD_decimalPointMask (ch : Channel) (intOH extOH : Bool) :
    ∃! k : Fin 4, (decimalPointMask intOH extOH).getLsbD (slotOf ch k).val = true :=
  ⟨_, (getLsbD_decimalPointMask ch intOH extOH _).2 rfl, fun k => (getLsbD_decimalPointMask ch intOH extOH k).1⟩

/-- Settles O29, by the rows of the table and the one bit that each half of them sets. -/
theorem dispdpSelectsTheTableMask : Obligations.DispdpSelectsTheTableMask := by
  intro intOH extOH s
  refine ⟨rfl, _, _, exec_dispdp intOH extOH s, rfl, rfl, ?_, existsUnique_getLsbD_decimalPointMask .external intOH extOH,
    existsUnique_getLsbD_decimalPointMask .internal intOH extOH, rfl, rfl, rfl, ⟨rfl, rfl⟩, rfl, rfl⟩
  match intOH, extOH with
  | true, true | true, false | false, true | false, false => rfl

/-! ### The ones digit under the point (R142) -/

/-- A render leaves the ones digit of its whole part in the slot that its flag selects (R25). -/
theorem readDigit_onesSlot (ch : Channel) (useF : Bool) (bits : Nat) (v : Option Result) (s : State) :
    readDigit (present v (writeHalf ch useF (renderingOf bits) s)) (slotOf ch (onesSlot (hundredPlus (wholeOf bits)))) =
      some (BitVec.ofNat 8 (wholeOf bits % 10)) := by
  obtain ⟨-, hmid, hlow⟩ := readDigit_rendered ch useF (renderingOf bits) v s
  rw [hundredPlus_natCast]
  by_cases hhundred : 100 ≤ wholeOf bits
  · rw [decide_eq_true hhundred, onesSlot, if_pos rfl, hlow, lowSlot_renderingOf, if_pos hhundred]
  · rw [decide_eq_false hhundred, onesSlot, if_neg Bool.false_ne_true, hmid, midSlot_renderingOf, if_neg hhundred]

/-- DISPDP with a channel's own flag and the other channel's, whichever comes first (R140). -/
def dispdpFor (ch : Channel) (own other : Bool) : Instr :=
  match ch with
  | .internal => .dispdp own other
  | .external => .dispdp other own

/-- DISPDP with a channel's flag writes a mask whose one bit in that half is the ones digit's slot, and writes no slot. -/
theorem exec_dispdpFor (ch : Channel) (own other : Bool) (s : State) :
    ∃ (t : State) (mask : Byte), exec (dispdpFor ch own other) s = .next t ∧ t.dpmask = some mask ∧ t.digit = s.digit ∧
      ∀ j : Fin 4, mask.getLsbD (slotOf ch j).val = true ↔ j = onesSlot own := by
  cases ch with
  | internal => exact ⟨_, _, exec_dispdp own other s, rfl, rfl, getLsbD_decimalPointMask .internal own other⟩
  | external => exact ⟨_, _, exec_dispdp other own s, rfl, rfl, getLsbD_decimalPointMask .external other own⟩

/-- Settles O30: the flag that the render presents selects the slot in which the render left its ones digit. -/
theorem decimalPointFollowsTheOnesDigit : Obligations.DecimalPointFollowsTheOnesDigit := by
  intro ch tc tf useF other s hin
  obtain ⟨u, mask, hu, hmask, hdigit, hbit⟩ :=
    exec_dispdpFor ch (hundredPlus (wholeOf (clampedBits (selectTemp useF tc tf)))) other
      (present (some (.hundredPlus (hundredPlus (wholeOf (clampedBits (selectTemp useF tc tf))))))
        (writeHalf ch useF (renderingOf (clampedBits (selectTemp useF tc tf))) s))
  refine ⟨_, u, _, _, mask, _, exec_disptemp_inside ch hin s, rfl, renderTemp_clampTemp_of_inside hin, hu, hmask, hbit, ?_⟩
  rw [readDigit_congr hdigit, readDigit_onesSlot, renderingOf_whole, Int.toNat_natCast]

end Sys2Proof.Machine
end

section
/-! The display clearer (45_display_clear.md). CLRDISP leaves one state, which says nothing of the DIGIT, DPMASK and result
port it found; so a second CLRDISP changes nothing (R151), and what it cleared stays until the next write (R24, R26). -/

namespace Sys2Proof.Machine

/-! ### The cleared state (R150, R151) -/

/-- The state with a blank display: every slot BLANK, DPMASK 0x00, no result, the rest as in `s` (R150). -/
def cleared (s : State) : State :=
  { s with digit := Vector.replicate 8 (some blankPattern), dpmask := some 0x00#8, result := none }

theorem readDigit_cleared (s : State) (i : Fin 8) : readDigit (cleared s) i = some blankPattern :=
  Vector.getElem_replicate i.isLt

/-- Clearing a cleared state is no change (R151). -/
theorem cleared_cleared (s : State) : cleared (cleared s) = cleared s := rfl

/-- The eight blanking writes leave the same DIGIT whatever it held. -/
theorem blankDigits_digit (s : State) : (blankDigits s).digit = (cleared s).digit :=
  digit_ext fun i => (readDigit_blankDigits s i).trans (readDigit_cleared s i).symm

/-- What CLRDISP does (R150). -/
theorem exec_clrdisp (s : State) : exec .clrdisp s = .next (cleared s) := by
  have hwrites : exec .clrdisp s = .next { cleared s with digit := (blankDigits s).digit } := rfl
  rw [hwrites, blankDigits_digit]

/-! ### What was cleared stays until the next write (R24, R26) -/

/-- Only a channel's own half holds its slots (R25). -/
theorem eq_channel_of_slotOf_inside {ch ch' : Channel} {k : Fin 4} (hlow : slotBase ch' ≤ (slotOf ch k).val)
    (hhigh : (slotOf ch k).val < slotBase ch' + 4) : ch' = ch := by
  rw [slotOf_val] at hlow hhigh
  match ch, ch' with
  | .external, .external | .internal, .internal => rfl
  | .external, .internal | .internal, .external =>
    simp only [slotBase] at hlow hhigh
    omega

/-- A blank slot stays blank through an operation that is no DISPTEMP of its channel: CLRDISP alone then writes it. -/
theorem exec_keeps_blank_slot {i : Instr} {s t : State} {ch : Channel} {k : Fin 4} (hx : exec i s = .next t)
    (hblank : readDigit s (slotOf ch k) = some blankPattern) (hi : ∀ tc tf useF, i ≠ .disptemp ch tc tf useF) :
    readDigit t (slotOf ch k) = some blankPattern := by
  rw [(exec_outputsWritten hx).digit, hblank]
  by_cases hw : digitWrite i (slotOf ch k) = none
  · rw [hw, Option.none_or]
  · rcases digitWrite_writer hw with rfl | ⟨ch', tc, tf, useF, rfl, hlow, hhigh⟩
    · rfl
    · obtain rfl := eq_channel_of_slotOf_inside hlow hhigh
      exact absurd rfl (hi tc tf useF)

/-- A clear mask stays clear through an operation that is no DISPDP: CLRDISP alone then writes it. -/
theorem exec_keeps_clear_mask {i : Instr} {s t : State} (hx : exec i s = .next t) (hclear : s.dpmask = some 0x00#8)
    (hi : ∀ intOH extOH, i ≠ .dispdp intOH extOH) : t.dpmask = some 0x00#8 := by
  rw [(exec_outputsWritten hx).dpmask, hclear]
  by_cases hw : dpmaskWrite i = none
  · rw [hw, Option.none_or]
  · rcases dpmaskWrite_writer hw with rfl | ⟨intOH, extOH, rfl⟩
    · rfl
    · exact absurd rfl (hi intOH extOH)

/-- Settles O31: the cleared state is what CLRDISP leaves, clearing it again is no change, and only the named writers end
it. -/
theorem clrdispBlanksTheDisplay : Obligations.ClrdispBlanksTheDisplay := by
  refine fun s => ⟨rfl, cleared s, exec_clrdisp s, rfl, readDigit_cleared s, rfl, rfl, rfl, ⟨rfl, rfl⟩, rfl, rfl,
    fun i u hx => ⟨fun ch hi => ?_, fun hi => ?_⟩, ?_⟩
  · exact exec_keeps_blank_slot hx (readDigit_cleared s _) hi
  · exact exec_keeps_clear_mask hx rfl hi
  · rw [exec_clrdisp, cleared_cleared]

end Sys2Proof.Machine
end

section
/-! Runs of several operations (70_reset_and_hazards.md R189): after a list of operations each output register holds what the last
one to write it wrote, the marks are as before if no render faulted, and the host's own list is untouched. So a statement
about a sequence of operations needs what each of them writes and no state in between. -/

namespace Sys2Proof.Machine

/-! ### Issuing, one operation at a time -/

/-- Issuing an operation is performing it: its command decodes to it (R57). -/
theorem issue_eq_some_iff {i : Instr} {s t : State} : issue i s = some t ↔ exec i s = .next t := by
  obtain ⟨u, hu⟩ := exec_next i s
  rw [issue_of_exec (encodedInstructionsDecodeToThemselves i) hu, hu, Option.some.injEq, Host.Outcome.next.injEq]

/-- The host can always issue one more operation (R160, R165). -/
theorem issue_next (i : Instr) (s : State) : ∃ t, issue i s = some t := by
  obtain ⟨t, ht⟩ := exec_next i s
  exact ⟨t, issue_eq_some_iff.2 ht⟩

theorem issueAll_cons_of_exec {i : Instr} {s t : State} (h : exec i s = .next t) (l : List Instr) :
    issueAll (i :: l) s = issueAll l t :=
  issueAll_cons (issue_eq_some_iff.2 h)

/-! ### The last write -/

/-- The last value that a list of operations writes into a register, where `w` says what each operation writes there. -/
def lastWrite {α : Type} (w : Instr → Option α) (l : List Instr) : Option α := l.reverse.findSome? w

theorem lastWrite_cons {α : Type} (w : Instr → Option α) (i : Instr) (l : List Instr) :
    lastWrite w (i :: l) = (lastWrite w l).or (w i) := by
  rw [lastWrite, List.reverse_cons, List.findSome?_append, List.findSome?_singleton, lastWrite]

/-- A list that holds a writer of the register writes it. -/
theorem lastWrite_ne_none_of_mem {α : Type} {w : Instr → Option α} {i : Instr} {l : List Instr} (hi : i ∈ l)
    (hw : w i ≠ none) : lastWrite w l ≠ none :=
  fun h => hw (List.findSome?_eq_none_iff.1 h i (List.mem_reverse.2 hi))

/-- An operation ahead of a list does not show in a register that it leaves alone. -/
theorem lastWrite_cons_of_not_writer {α : Type} {w : Instr → Option α} {i : Instr} (hw : w i = none) (l : List Instr) :
    lastWrite w (i :: l) = lastWrite w l := by
  rw [lastWrite_cons, hw, Option.or_none]

/-- An operation ahead of a list does not show in a register that the list writes. -/
theorem lastWrite_cons_of_written {α : Type} {w : Instr → Option α} {l : List Instr} (h : lastWrite w l ≠ none)
    (i : Instr) : lastWrite w (i :: l) = lastWrite w l := by
  rw [lastWrite_cons, Option.or_of_isSome (Option.isSome_iff_ne_none.2 h)]

/-- A register that a list writes holds a value after it. -/
theorem ne_none_of_lastWrite {α : Type} {w : Instr → Option α} {l : List Instr} {old new : Option α}
    (hnew : new = (lastWrite w l).or old) (h : lastWrite w l ≠ none) : new ≠ none := by
  rw [hnew, Option.or_of_isSome (Option.isSome_iff_ne_none.2 h)]
  exact h

/-- The output registers of `t` are those of `s` with the last writes of the list on top. -/
structure LastWritten (l : List Instr) (s t : State) : Prop where
  digit : ∀ j, readDigit t j = (lastWrite (digitWrite · j) l).or (readDigit s j)
  dpmask : t.dpmask = (lastWrite dpmaskWrite l).or s.dpmask
  duty : ∀ j, readDuty t j = (lastWrite (dutyWrite · j) l).or (readDuty s j)
  led : t.led = (lastWrite ledWrite l).or s.led

/-- Later writes stand on top of the first operation's. -/
theorem OutputsWritten.cons {i : Instr} {l : List Instr} {s t u : State} (h : OutputsWritten i s t)
    (hl : LastWritten l t u) : LastWritten (i :: l) s u where
  digit j := by rw [hl.digit, h.digit, lastWrite_cons, Option.or_assoc]
  dpmask := by rw [hl.dpmask, h.dpmask, lastWrite_cons, Option.or_assoc]
  duty j := by rw [hl.duty, h.duty, lastWrite_cons, Option.or_assoc]
  led := by rw [hl.led, h.led, lastWrite_cons, Option.or_assoc]

/-! ### What a run leaves -/

theorem issueAll_lastWritten {l : List Instr} {s t : State} (h : issueAll l s = some t) : LastWritten l s t := by
  induction l generalizing s with
  | nil =>
    obtain rfl := Option.some.inj h
    exact ⟨fun _ => rfl, rfl, fun _ => rfl, rfl⟩
  | cons i l ih =>
    obtain ⟨u, hu⟩ := exec_next i s
    rw [issueAll_cons_of_exec hu] at h
    exact (exec_outputsWritten hu).cons (ih h)

/-- Operations none of which is a render outside its domain leave both marks (R30). -/
theorem issueAll_sameMarks {l : List Instr} {s t : State} (h : issueAll l s = some t) (hl : ∀ i ∈ l, ¬ Faulting i) :
    SameMarks s t := by
  induction l generalizing s with
  | nil =>
    obtain rfl := Option.some.inj h
    exact ⟨rfl, rfl⟩
  | cons i l ih =>
    obtain ⟨hi, hl⟩ := List.forall_mem_cons.1 hl
    obtain ⟨u, hu⟩ := exec_next i s
    rw [issueAll_cons_of_exec hu] at h
    obtain ⟨hfault, hrefused⟩ := ih h hl
    rcases exec_marks_cases hu with ⟨hfaulting, -⟩ | ⟨-, hfault', hrefused'⟩
    · exact absurd hfaulting hi
    · exact ⟨hfault.trans hfault', hrefused.trans hrefused'⟩

/-- Operations that the host issues one by one leave the list of its further commands (log 1). -/
theorem issueAll_pending {l : List Instr} {s t : State} (h : issueAll l s = some t) : t.pending = s.pending := by
  induction l generalizing s with
  | nil => rw [Option.some.inj h]
  | cons i l ih =>
    obtain ⟨u, hu⟩ := exec_next i s
    rw [issueAll_cons_of_exec hu] at h
    exact (ih h).trans (exec_pending hu)

/-! ### The writers reach their whole part -/

/-- Inside its domain a render writes every slot of its half (R121). -/
theorem digitWrite_disptemp_ne_none (ch : Channel) {tc tf : Binary32} {useF : Bool}
    (hin : ¬ OutsideRenderDomain (selectTemp useF tc tf)) (k : Fin 4) :
    digitWrite (.disptemp ch tc tf useF) (slotOf ch k) ≠ none := by
  rw [digitWrite, renderTemp_clampTemp_of_inside hin, Option.bind_some]
  match k with
  | 0 | 1 | 2 | 3 => simp [halfWrite, slotOf_inj]

/-- SETRGB writes every duty channel of its triple (R100). -/
theorem dutyWrite_setrgb_ne_none (ch : Channel) (color : AlertColor) (k : Fin 3) :
    dutyWrite (.setrgb ch color) (dutyOf ch k) ≠ none := by
  match k with
  | 0 | 1 | 2 => simp [dutyWrite, dutyOf_inj]

/-- The two halves are all of DIGIT (R25). -/
theorem exists_slotOf (j : Fin 8) : ∃ ch k, slotOf ch k = j := by
  rcases Nat.lt_or_ge j.val 4 with hlt | hge
  · exact ⟨.external, ⟨j.val, hlt⟩, rfl⟩
  · exact ⟨.internal, ⟨j.val - 4, by omega⟩, Fin.ext (Nat.add_sub_cancel' hge)⟩

/-- The two triples are all of DUTY[0..5] (R28). -/
theorem exists_dutyOf {j : Fin 8} (hj : j.val < 6) : ∃ ch k, dutyOf ch k = j := by
  rcases Nat.lt_or_ge j.val 3 with hlt | hge
  · exact ⟨.external, ⟨j.val, hlt⟩, rfl⟩
  · exact ⟨.internal, ⟨j.val - 3, by omega⟩, Fin.ext (Nat.add_sub_cancel' hge)⟩

end Sys2Proof.Machine
end

section
/-! Reset and hazards (70_reset_and_hazards.md): the clear before two renders does not show (O32, R182), and the host's
iteration carries each result to the operand that needs it (O45, R184, R187). -/

namespace Sys2Proof.Machine

/-! ### The clear before both renders (R182) -/

/-- Renders of both channels inside their domains write every slot between them. -/
theorem both_renders_write_digit {tcE tfE tcI tfI : Binary32} {fE fI : Bool} {l : List Instr}
    (hE : ¬ OutsideRenderDomain (selectTemp fE tcE tfE)) (hI : ¬ OutsideRenderDomain (selectTemp fI tcI tfI))
    (hmemE : .disptemp .external tcE tfE fE ∈ l) (hmemI : .disptemp .internal tcI tfI fI ∈ l) (j : Fin 8) :
    lastWrite (digitWrite · j) l ≠ none := by
  obtain ⟨ch, k, rfl⟩ := exists_slotOf j
  cases ch with
  | external => exact lastWrite_ne_none_of_mem hmemE (digitWrite_disptemp_ne_none .external hE k)
  | internal => exact lastWrite_ne_none_of_mem hmemI (digitWrite_disptemp_ne_none .internal hI k)

/-- A clear does not show after operations that write every slot and the mask: it writes nothing else (R24, R26). -/
theorem clear_unobservable {l : List Instr} {s t u : State} (ht : issueAll (.clrdisp :: l) s = some t)
    (hu : issueAll l s = some u) (hdigit : ∀ j, lastWrite (digitWrite · j) l ≠ none)
    (hdpmask : lastWrite dpmaskWrite l ≠ none) : SameOutputs t u := by
  have hwt := issueAll_lastWritten ht
  have hwu := issueAll_lastWritten hu
  refine ⟨digit_ext fun j => ?_, ?_, duty_ext fun j => ?_, ?_⟩
  · rw [hwu.digit, hwt.digit, lastWrite_cons_of_written (hdigit j)]
  · rw [hwu.dpmask, hwt.dpmask, lastWrite_cons_of_written hdpmask]
  · rw [hwu.duty, hwt.duty, lastWrite_cons_of_not_writer rfl]
  · rw [hwu.led, hwt.led, lastWrite_cons_of_not_writer rfl]

/-- Settles O32: the two renders write every slot and DISPDP the mask, which is all that the clear wrote. -/
theorem clearIsUnobservableAfterBothRenders : Obligations.ClearIsUnobservableAfterBothRenders := by
  intro tcE tfE tcI tfI fE fI intOH extOH s hE hI
  obtain ⟨t₀, ht₀⟩ := exec_next .clrdisp s
  obtain ⟨t₁, ht₁⟩ := exec_next (.disptemp .external tcE tfE fE) t₀
  obtain ⟨t₂, ht₂⟩ := exec_next (.disptemp .internal tcI tfI fI) t₁
  obtain ⟨t₃, ht₃⟩ := exec_next (.dispdp intOH extOH) t₂
  obtain ⟨u₁, hu₁⟩ := exec_next (.disptemp .external tcE tfE fE) s
  obtain ⟨u₂, hu₂⟩ := exec_next (.disptemp .internal tcI tfI fI) u₁
  obtain ⟨u₃, hu₃⟩ := exec_next (.dispdp intOH extOH) u₂
  refine ⟨t₀, t₁, t₂, t₃, u₁, u₂, u₃, ht₀, ht₁, ht₂, ht₃, hu₁, hu₂, hu₃,
    clear_unobservable (l := [.disptemp .external tcE tfE fE, .disptemp .internal tcI tfI fI, .dispdp intOH extOH])
      (s := s) ?_ ?_ (both_renders_write_digit hE hI (by simp) (by simp)) (Option.some_ne_none _)⟩
  · rw [issueAll_cons_of_exec ht₀, issueAll_cons_of_exec ht₁, issueAll_cons_of_exec ht₂, issueAll_cons_of_exec ht₃,
      issueAll_nil]
  · rw [issueAll_cons_of_exec hu₁, issueAll_cons_of_exec hu₂, issueAll_cons_of_exec hu₃, issueAll_nil]

/-! ### What the host reads after each operation (R56, R184) -/

theorem issue_getlim (ch : Channel) (w : Half) (s : State) :
    ∃ t, issue (.getlim ch w) s = some t ∧ portLimit t = some (switchLimit ch w) :=
  ⟨_, issue_eq_some_iff.2 rfl, rfl⟩

theorem issue_getfmt (ch : Channel) (w : Half) (s : State) :
    ∃ t, issue (.getfmt ch w) s = some t ∧ portFormat t = some (switchFormat ch w) :=
  ⟨_, issue_eq_some_iff.2 rfl, rfl⟩

/-- `tf` encodes the Fahrenheit value of `tc`, any NaN where that is one (R70, log 7). -/
def FahrenheitOf (tc tf : Binary32) : Prop :=
  ∃ nan, unpack nan = .nan ∧ tf = pack nan (celsiusToFahrenheit (unpack tc))

theorem FahrenheitOf.unpack_eq {tc tf : Binary32} (h : FahrenheitOf tc tf) :
    unpack tf = celsiusToFahrenheit (unpack tc) := by
  obtain ⟨nan, hnan, rfl⟩ := h
  exact unpack_pack hnan (representable_fadd _ _)

/-- One NaN stands for all in the domain of the selected temperature: a NaN that is selected is outside it (R113). -/
theorem FahrenheitOf.inside {tc tf : Binary32} {useF : Bool} (h : FahrenheitOf tc tf)
    (hin : ¬ OutsideRenderDomain (selectTemp useF tc (pack 0x7FC00000#32 (celsiusToFahrenheit (unpack tc))))) :
    ¬ OutsideRenderDomain (selectTemp useF tc tf) := by
  obtain ⟨nan, -, rfl⟩ := h
  cases useF with
  | false => exact hin
  | true =>
    cases hv : isNaN (celsiusToFahrenheit (unpack tc)) with
    | false => rwa [pack_congr hv nan 0x7FC00000#32]
    | true =>
      have hdrawn : isNaN (unpack (pack 0x7FC00000#32 (celsiusToFahrenheit (unpack tc)))) = true := by
        rw [eq_nan_of_isNaN hv]
        decide
      exact absurd (.inl hdrawn) hin

theorem issue_cel2fer (tc : Binary32) (s : State) :
    ∃ t tf, issue (.cel2fer tc) s = some t ∧ portTempF t = some tf ∧ FahrenheitOf tc tf :=
  ⟨_, _, issue_eq_some_iff.2 rfl, portTempF_presentFloat _ s, nextNaN s, eq_nan_of_isNaN (isNaN_nextNaN s), rfl⟩

theorem issue_disptemp_inside (ch : Channel) {tc tf : Binary32} {useF : Bool}
    (hin : ¬ OutsideRenderDomain (selectTemp useF tc tf)) (s : State) :
    ∃ t, issue (.disptemp ch tc tf useF) s = some t ∧
      portHundredPlus t = some (hundredPlus (renderingOf (clampedBits (selectTemp useF tc tf))).whole) :=
  ⟨_, issue_eq_some_iff.2 (exec_disptemp_inside ch hin s), rfl⟩

/-! ### The iteration (R187) -/

/-- The values of R187's data flow for its inputs, where both renders are inside their domains. -/
structure CarriesItsResults (inp : HostInputs) (h : Iteration) : Prop where
  inputs : h.inputs = inp
  le : h.le = switchLimit .external inp.w
  li : h.li = switchLimit .internal inp.w
  fe : h.fe = switchFormat .external inp.w
  fi : h.fi = switchFormat .internal inp.w
  tfE : FahrenheitOf inp.tcE h.tfE
  tfI : FahrenheitOf inp.tcI h.tfI
  ce : h.ce = hostAlertColor h.le h.fe inp.tcE h.tfE
  ci : h.ci = hostAlertColor h.li h.fi inp.tcI h.tfI
  insideE : ¬ OutsideRenderDomain (selectTemp h.fe inp.tcE h.tfE)
  insideI : ¬ OutsideRenderDomain (selectTemp h.fi inp.tcI h.tfI)
  hE : h.hE = hundredPlus (renderingOf (clampedBits (selectTemp h.fe inp.tcE h.tfE))).whole
  hI : h.hI = hundredPlus (renderingOf (clampedBits (selectTemp h.fi inp.tcI h.tfI))).whole

/-- The iteration completes with these values: every operation answers, and leaves on the port what the host reads. -/
theorem exists_runIteration (inp : HostInputs) (s : State)
    (hinE : ¬ OutsideRenderDomain (selectTemp (switchFormat .external inp.w) inp.tcE
      (pack 0x7FC00000#32 (celsiusToFahrenheit (unpack inp.tcE)))))
    (hinI : ¬ OutsideRenderDomain (selectTemp (switchFormat .internal inp.w) inp.tcI
      (pack 0x7FC00000#32 (celsiusToFahrenheit (unpack inp.tcI))))) :
    ∃ h u, runIteration inp s = some (h, u) ∧ CarriesItsResults inp h := by
  obtain ⟨s₁, h1, p1⟩ := issue_getlim .external inp.w s
  obtain ⟨s₂, h2, p2⟩ := issue_getlim .internal inp.w s₁
  obtain ⟨s₃, h3, p3⟩ := issue_getfmt .external inp.w s₂
  obtain ⟨s₄, h4, p4⟩ := issue_getfmt .internal inp.w s₃
  obtain ⟨s₅, h5⟩ := issue_next (.displim ((switchLimit .external inp.w).zeroExtend 32)
    ((switchLimit .internal inp.w).zeroExtend 32)) s₄
  obtain ⟨s₆, tfE, h6, p6, htfE⟩ := issue_cel2fer inp.tcE s₅
  obtain ⟨s₇, tfI, h7, p7, htfI⟩ := issue_cel2fer inp.tcI s₆
  obtain ⟨s₈, h8⟩ := issue_next (.setrgb .external (hostAlertColor (switchLimit .external inp.w)
    (switchFormat .external inp.w) inp.tcE tfE)) s₇
  obtain ⟨s₉, h9⟩ := issue_next (.setrgb .internal (hostAlertColor (switchLimit .internal inp.w)
    (switchFormat .internal inp.w) inp.tcI tfI)) s₈
  obtain ⟨s₁₀, h10⟩ := issue_next .clrdisp s₉
  obtain ⟨s₁₁, h11, p11⟩ := issue_disptemp_inside .external (htfE.inside hinE) s₁₀
  obtain ⟨s₁₂, h12, p12⟩ := issue_disptemp_inside .internal (htfI.inside hinI) s₁₁
  obtain ⟨u, h13⟩ := issue_next (.dispdp _ _) s₁₂
  exact ⟨⟨inp, _, _, _, _, tfE, tfI, _, _, _, _⟩, u,
    runIteration_eq_some.2 ⟨rfl, rfl, rfl, s₁, s₂, s₃, s₄, s₅, s₆, s₇, s₈, s₉, s₁₀, s₁₁, s₁₂,
      h1, p1, h2, p2, h3, p3, h4, p4, h5, h6, p6, h7, p7, h8, h9, h10, h11, p11, h12, p12, h13⟩,
    ⟨rfl, rfl, rfl, rfl, rfl, htfE, htfI, rfl, rfl, htfE.inside hinE, htfI.inside hinI, rfl, rfl⟩⟩

/-- The thirteen operations define every output register: SETRGB both triples, CLRDISP every slot (R181). -/
theorem outputsDefined_of_commands {h : Iteration} {s u : State} (hrun : issueAll h.commands s = some u) :
    OutputsDefined u := by
  have hw := issueAll_lastWritten hrun
  have hclear : Instr.clrdisp ∈ h.commands := by simp [Iteration.commands]
  have hexternal : Instr.setrgb .external h.ce ∈ h.commands := by simp [Iteration.commands]
  have hinternal : Instr.setrgb .internal h.ci ∈ h.commands := by simp [Iteration.commands]
  refine ⟨fun j => ?_, ?_, fun j hj => ?_, ?_⟩
  · exact ne_none_of_lastWrite (hw.digit j) (lastWrite_ne_none_of_mem hclear (Option.some_ne_none _))
  · exact ne_none_of_lastWrite hw.dpmask (lastWrite_ne_none_of_mem hclear (Option.some_ne_none _))
  · refine ne_none_of_lastWrite (hw.duty j) ?_
    obtain ⟨ch, k, rfl⟩ := exists_dutyOf hj
    cases ch with
    | external => exact lastWrite_ne_none_of_mem hexternal (dutyWrite_setrgb_ne_none .external h.ce k)
    | internal => exact lastWrite_ne_none_of_mem hinternal (dutyWrite_setrgb_ne_none .internal h.ci k)
  · exact ne_none_of_lastWrite hw.led (Option.some_ne_none _)

/-- LED mirrors the limits of the one switch word: DISPLIM alone writes it (R86, R187). -/
theorem CarriesItsResults.led_eq {inp : HostInputs} {h : Iteration} (hc : CarriesItsResults inp h) {s u : State}
    (hrun : issueAll h.commands s = some u) : u.led = some (inp.w &&& 0x7F7F#16) := by
  have hled : u.led = some (mirrorWord (h.le.setWidth 32) (h.li.setWidth 32)) := (issueAll_lastWritten hrun).led
  rw [hled, hc.le, hc.li, mirrorWord_switchLimit]

/-- No operation of the iteration faults: its renders are the two inside their domains. -/
theorem CarriesItsResults.not_faulting {inp : HostInputs} {h : Iteration} (hc : CarriesItsResults inp h) :
    ∀ i ∈ h.commands, ¬ Faulting i := by
  obtain rfl := hc.inputs
  simp only [Iteration.commands, List.forall_mem_cons]
  exact ⟨id, id, id, id, id, id, id, id, id, id, hc.insideE, hc.insideI, id, nofun⟩

/-- Settles O45: the iteration completes with R187's values, and its end state is read off the last writes of its thirteen
operations. -/
theorem canonicalIterationCarriesItsResults : Obligations.CanonicalIterationCarriesItsResults := by
  intro inp s hinE hinI
  obtain ⟨h, u, hiter, hc⟩ := exists_runIteration inp s hinE hinI
  have hrun := issueAll_commands_of_runIteration hiter
  have hcanonical : IsCanonicalIteration h s u := by rw [IsCanonicalIteration, hc.inputs, hiter]
  have hle : h.le.toNat = inp.w.toNat % 128 := by rw [hc.le, switchLimit_external_toNat]
  have hli : h.li.toNat = inp.w.toNat / 256 % 128 := by rw [hc.li, switchLimit_internal_toNat]
  exact ⟨h, u, _, _, hc.inputs, hcanonical, hle, hli, hc.fe, hc.fi, hc.tfE.unpack_eq, hc.tfI.unpack_eq, hc.ce, hc.ci,
    renderTemp_clampTemp_of_inside hc.insideE, hc.hE, renderTemp_clampTemp_of_inside hc.insideI, hc.hI, hrun,
    hc.led_eq hrun, (issueAll_lastWritten hrun).dpmask, outputsDefined_of_commands hrun,
    issueAll_sameMarks hrun hc.not_faulting, issueAll_pending hrun⟩

end Sys2Proof.Machine
end
